-- ==== Sys2Proof/Word.lean ====
section
/-! DEFINITION. The word types of the block: the 32-bit words of the register window and of the commands
(20_memory.md R71, 30_encoding.md R90), the 16-bit words of the sample RAM (20_memory.md R74) and bytes. -/

namespace Sys2Proof

/-- A word of the register window, an argument, a result or a command (20_memory.md R71). -/
abbrev Word := BitVec 32

/-- A 16-bit register or a word of the sample RAM (10_state.md R28, R43, R49). -/
abbrev Half := BitVec 16

/-- A byte of the sample RAM as the model stores it. -/
abbrev Byte := BitVec 8

/-- The module field `M` of a command word (30_encoding.md R90). -/
abbrev ModuleIndex := BitVec 4

end Sys2Proof
end

