-- ==== Sys2Proof/Syntax.lean ====
section
/-! DEFINITION. The 54 commands of the block, one constructor per row of 30_encoding.md R96, with the operand
fields `M`, `S`, `I` that the row uses (30_encoding.md R91 to R94). -/

namespace Sys2Proof

/-- The table pair that CLKDIV_CALC selects with `S[0]` (30_encoding.md R94). -/
inductive DivTable where
  | pwm
  | adc
deriving DecidableEq, Repr

/-- The two start-of-conversion lines of a module's event trigger (10_state.md R35). -/
inductive Soc where
  | soca
  | socb
deriving DecidableEq, Repr

/-- When a module's sync-out pulse fires (10_state.md R33, 44_sync_phase_hr.md R210). -/
inductive SyncEvent where
  | input
  | period
  | edge
  | disable
deriving DecidableEq, Repr

/-- The eight Toggles of a module, by toggle id (42_deadband_toggle.md R177). -/
inductive Toggle where
  | output0
  | output1
  | polarity0
  | polarity1
  | input0
  | input1
  | chopperEnable
  | phaseEnable
deriving DecidableEq, Repr

/-- The sixteen registers PWM_READ_REG reads, by register id (41_pwm_timebase.md R160). -/
inductive PwmReg where
  | tbprd
  | tbprdA
  | cmpa
  | cmpaA
  | cmpb
  | cmpbA
  | cmpahr
  | cmpahrA
  | dbred
  | dbfed
  | dbctl
  | tbphs
  | chpctl
  | tbctl
  | etsel
  | hrcnfg
deriving DecidableEq, Repr

/-- A command (30_encoding.md R96). `m` is the module field, `set` the set flag of a getter (00_scope.md R12).
Fields whose every encoding is legal are named types; the counting mode and the trigger source keep their two
bits, because the encoding has a fourth value that is `ILLEGAL` (30_encoding.md R94), and channel counts,
channels and event codes keep theirs, because other values are `REJECTED` by the command. -/
inductive Instr where
  | nop
  | drvInit
  | clkdivCalc (table : DivTable)
  | pwmConstruct (m : ModuleIndex) (mode : BitVec 2)
  | pwmRelease (m : ModuleIndex)
  | pwmStart (m : ModuleIndex) (n : BitVec 4)
  | pwmSetTask (m : ModuleIndex) (n : BitVec 4)
  | pwmStop (m : ModuleIndex)
  | pwmGetFreq (m : ModuleIndex) (set : Bool)
  | pwmGetDuty (m : ModuleIndex) (c : BitVec 4) (set : Bool)
  | pwmGetBounds (m : ModuleIndex)
  | pwmGetState (m : ModuleIndex)
  | pwmReadReg (m : ModuleIndex) (r : PwmReg)
  | dbSetRise (m : ModuleIndex)
  | dbSetFall (m : ModuleIndex)
  | dbGetRise (m : ModuleIndex) (set : Bool)
  | dbGetFall (m : ModuleIndex) (set : Bool)
  | tglDisable (m : ModuleIndex) (t : Toggle)
  | tglEnable (m : ModuleIndex) (t : Toggle) (status : Bool)
  | tglRead (m : ModuleIndex) (t : Toggle)
  | chpSetFreq (m : ModuleIndex)
  | chpSetDuty (m : ModuleIndex)
  | chpSetPulse (m : ModuleIndex)
  | chpGetFreq (m : ModuleIndex) (set : Bool)
  | chpGetDuty (m : ModuleIndex) (set : Bool)
  | chpGetPulse (m : ModuleIndex) (set : Bool)
  | syncSetEvent (m : ModuleIndex) (e : SyncEvent)
  | syncGetEvent (m : ModuleIndex)
  | syncIsSynchronizing (m : ModuleIndex)
  | syncSynchronize (m : ModuleIndex)
  | phsSet (m : ModuleIndex)
  | phsGet (m : ModuleIndex) (set : Bool)
  | phsSetDir (m : ModuleIndex) (dir : Bool)
  | phsGetDir (m : ModuleIndex)
  | hrEnable (m : ModuleIndex)
  | hrDisable (m : ModuleIndex)
  | hrIsEnabled (m : ModuleIndex)
  | pwmGetResolution (m : ModuleIndex)
  | etSetEvent (m : ModuleIndex) (x : Soc) (e : BitVec 3)
  | etResetEvent (m : ModuleIndex) (x : Soc)
  | etGetEvent (m : ModuleIndex) (x : Soc)
  | adcConstruct
  | adcRelease
  | adcGetClock
  | adcRegisterTask
  | adcSetTrigger (m : ModuleIndex) (src : BitVec 2)
  | adcTrigger
  | adcGetFreeIndex
  | adcGetFullIndex
  | adcSetFullIsFree
  | adcIsFilled
  | adcReadSample
  | adcGetStatus
  | adcClearStatus (mask : BitVec 3)
deriving DecidableEq, Repr

end Sys2Proof
end

