-- ==== Sys2Proof/WellFormed.lean ====
section
/-! DEFINITION. The field values the encoding fixes: the rows of 30_encoding.md R94 whose other values are
`ILLEGAL`. Every other field of every command may hold every value its bits can. -/

namespace Sys2Proof

/-- The command's field values are inside their encoding-fixed sets (30_encoding.md R94): the counting mode of
PWM_CONSTRUCT and the trigger source of ADC_SET_TRIGGER are 0, 1 or 2. -/
def Instr.wellFormed : Instr → Bool
  | .nop => true
  | .drvInit => true
  | .clkdivCalc _ => true
  | .pwmConstruct _ mode => mode != 3#2
  | .pwmRelease _ => true
  | .pwmStart _ _ => true
  | .pwmSetTask _ _ => true
  | .pwmStop _ => true
  | .pwmGetFreq _ _ => true
  | .pwmGetDuty _ _ _ => true
  | .pwmGetBounds _ => true
  | .pwmGetState _ => true
  | .pwmReadReg _ _ => true
  | .dbSetRise _ => true
  | .dbSetFall _ => true
  | .dbGetRise _ _ => true
  | .dbGetFall _ _ => true
  | .tglDisable _ _ => true
  | .tglEnable _ _ _ => true
  | .tglRead _ _ => true
  | .chpSetFreq _ => true
  | .chpSetDuty _ => true
  | .chpSetPulse _ => true
  | .chpGetFreq _ _ => true
  | .chpGetDuty _ _ => true
  | .chpGetPulse _ _ => true
  | .syncSetEvent _ _ => true
  | .syncGetEvent _ => true
  | .syncIsSynchronizing _ => true
  | .syncSynchronize _ => true
  | .phsSet _ => true
  | .phsGet _ _ => true
  | .phsSetDir _ _ => true
  | .phsGetDir _ => true
  | .hrEnable _ => true
  | .hrDisable _ => true
  | .hrIsEnabled _ => true
  | .pwmGetResolution _ => true
  | .etSetEvent _ _ _ => true
  | .etResetEvent _ _ => true
  | .etGetEvent _ _ => true
  | .adcConstruct => true
  | .adcRelease => true
  | .adcGetClock => true
  | .adcRegisterTask => true
  | .adcSetTrigger _ src => src != 3#2
  | .adcTrigger => true
  | .adcGetFreeIndex => true
  | .adcGetFullIndex => true
  | .adcSetFullIsFree => true
  | .adcIsFilled => true
  | .adcReadSample => true
  | .adcGetStatus => true
  | .adcClearStatus _ => true

/-- `Instr.wellFormed` as a proposition. -/
abbrev Instr.WellFormed (i : Instr) : Prop := i.wellFormed = true

end Sys2Proof
end

