-- ==== Sys2Proof/Decode.lean ====
section
/-! DEFINITION. The decoder of a command word, total and rejecting by name (30_encoding.md R90 to R99), and
after it the encoder, written from the same rows of R96. -/

namespace Sys2Proof

/-! ### The fields of a command word -/

/-- `OP = w[31:24]` (30_encoding.md R90). -/
def opField (w : Word) : BitVec 8 := w.extractLsb' 24 8
/-- `M = w[23:20]` (30_encoding.md R92). -/
def mField (w : Word) : ModuleIndex := w.extractLsb' 20 4
/-- `S = w[19:16]` (30_encoding.md R92). -/
def sField (w : Word) : BitVec 4 := w.extractLsb' 16 4
/-- `I = w[15:0]` (30_encoding.md R92). -/
def iField (w : Word) : BitVec 16 := w.extractLsb' 0 16

/-- The word with the four fields of 30_encoding.md R90. -/
def commandWord (op : BitVec 8) (m : ModuleIndex) (s : BitVec 4) (i : BitVec 16) : Word :=
  op ++ m ++ s ++ i

/-! ### The codes of the named fields -/

/-- The table bit of CLKDIV_CALC (30_encoding.md R94: 0 PWM tables, 1 ADC tables). -/
def DivTable.toBit : DivTable → Bool
  | .pwm => false
  | .adc => true

/-- The inverse of `DivTable.toBit`. -/
def DivTable.ofBit (b : Bool) : DivTable := if b then .adc else .pwm

/-- The SOC bit of the ET commands (30_encoding.md R94: 0 SOCA, 1 SOCB). -/
def Soc.toBit : Soc → Bool
  | .soca => false
  | .socb => true

/-- The inverse of `Soc.toBit`. -/
def Soc.ofBit (b : Bool) : Soc := if b then .socb else .soca

/-- The sync event codes (10_state.md R33). -/
def SyncEvent.code : SyncEvent → BitVec 2
  | .input => 0#2
  | .period => 1#2
  | .edge => 2#2
  | .disable => 3#2

/-- The inverse of `SyncEvent.code`: every code names one. -/
def SyncEvent.ofCode (c : BitVec 2) : SyncEvent :=
  match c.toNat with
  | 0 => .input
  | 1 => .period
  | 2 => .edge
  | _ => .disable

/-- The toggle ids (42_deadband_toggle.md R177). -/
def Toggle.code : Toggle → BitVec 3
  | .output0 => 0#3
  | .output1 => 1#3
  | .polarity0 => 2#3
  | .polarity1 => 3#3
  | .input0 => 4#3
  | .input1 => 5#3
  | .chopperEnable => 6#3
  | .phaseEnable => 7#3

/-- The inverse of `Toggle.code`: every code names one. -/
def Toggle.ofCode (c : BitVec 3) : Toggle :=
  match c.toNat with
  | 0 => .output0
  | 1 => .output1
  | 2 => .polarity0
  | 3 => .polarity1
  | 4 => .input0
  | 5 => .input1
  | 6 => .chopperEnable
  | _ => .phaseEnable

/-- The register ids (41_pwm_timebase.md R160). -/
def PwmReg.code : PwmReg → BitVec 4
  | .tbprd => 0#4
  | .tbprdA => 1#4
  | .cmpa => 2#4
  | .cmpaA => 3#4
  | .cmpb => 4#4
  | .cmpbA => 5#4
  | .cmpahr => 6#4
  | .cmpahrA => 7#4
  | .dbred => 8#4
  | .dbfed => 9#4
  | .dbctl => 10#4
  | .tbphs => 11#4
  | .chpctl => 12#4
  | .tbctl => 13#4
  | .etsel => 14#4
  | .hrcnfg => 15#4

/-- The inverse of `PwmReg.code`: every code names one. -/
def PwmReg.ofCode (c : BitVec 4) : PwmReg :=
  match c.toNat with
  | 0 => .tbprd
  | 1 => .tbprdA
  | 2 => .cmpa
  | 3 => .cmpaA
  | 4 => .cmpb
  | 5 => .cmpbA
  | 6 => .cmpahr
  | 7 => .cmpahrA
  | 8 => .dbred
  | 9 => .dbfed
  | 10 => .dbctl
  | 11 => .tbphs
  | 12 => .chpctl
  | 13 => .tbctl
  | 14 => .etsel
  | _ => .hrcnfg

/-! ### The rows of the opcode map -/

/-- A row of 30_encoding.md R96: the opcode, the mask of its fixed bits, and the command its field bits give.
The row's `match` word is the opcode above 24 zero bits. -/
structure CommandRow where
  opcode : BitVec 8
  mask : Word
  make : Word → Instr

/-- Opcodes 0x00 to 0x0F: driver and divider (30_encoding.md R96, R97). -/
def driverRows : List CommandRow := [
  ⟨0x00#8, 0xFFFFFFFF#32, fun _ => .nop⟩,
  ⟨0x01#8, 0xFFFFFFFF#32, fun _ => .drvInit⟩,
  ⟨0x02#8, 0xFFFEFFFF#32, fun w => .clkdivCalc (.ofBit (sField w)[0])⟩]

/-- Opcodes 0x10 to 0x1F: PWM time base (30_encoding.md R96, R97). -/
def timeBaseRows : List CommandRow := [
  ⟨0x10#8, 0xFF0FFFFC#32, fun w => .pwmConstruct (mField w) ((iField w).setWidth 2)⟩,
  ⟨0x11#8, 0xFF0FFFFF#32, fun w => .pwmRelease (mField w)⟩,
  ⟨0x12#8, 0xFF00FFFF#32, fun w => .pwmStart (mField w) (sField w)⟩,
  ⟨0x13#8, 0xFF00FFFF#32, fun w => .pwmSetTask (mField w) (sField w)⟩,
  ⟨0x14#8, 0xFF0FFFFF#32, fun w => .pwmStop (mField w)⟩,
  ⟨0x15#8, 0xFF0FFFFE#32, fun w => .pwmGetFreq (mField w) (iField w)[0]⟩,
  ⟨0x16#8, 0xFF00FFFE#32, fun w => .pwmGetDuty (mField w) (sField w) (iField w)[0]⟩,
  ⟨0x17#8, 0xFF0FFFFF#32, fun w => .pwmGetBounds (mField w)⟩,
  ⟨0x18#8, 0xFF0FFFFF#32, fun w => .pwmGetState (mField w)⟩,
  ⟨0x19#8, 0xFF00FFFF#32, fun w => .pwmReadReg (mField w) (.ofCode (sField w))⟩]

/-- Opcodes 0x20 to 0x2F: dead-band and Toggle (30_encoding.md R96, R97). -/
def deadBandToggleRows : List CommandRow := [
  ⟨0x20#8, 0xFF0FFFFF#32, fun w => .dbSetRise (mField w)⟩,
  ⟨0x21#8, 0xFF0FFFFF#32, fun w => .dbSetFall (mField w)⟩,
  ⟨0x22#8, 0xFF0FFFFE#32, fun w => .dbGetRise (mField w) (iField w)[0]⟩,
  ⟨0x23#8, 0xFF0FFFFE#32, fun w => .dbGetFall (mField w) (iField w)[0]⟩,
  ⟨0x28#8, 0xFF08FFFF#32, fun w => .tglDisable (mField w) (.ofCode ((sField w).setWidth 3))⟩,
  ⟨0x29#8, 0xFF08FFFE#32, fun w => .tglEnable (mField w) (.ofCode ((sField w).setWidth 3)) (iField w)[0]⟩,
  ⟨0x2A#8, 0xFF08FFFF#32, fun w => .tglRead (mField w) (.ofCode ((sField w).setWidth 3))⟩]

/-- Opcodes 0x30 to 0x3F: chopper (30_encoding.md R96, R97). -/
def chopperRows : List CommandRow := [
  ⟨0x30#8, 0xFF0FFFFF#32, fun w => .chpSetFreq (mField w)⟩,
  ⟨0x31#8, 0xFF0FFFFF#32, fun w => .chpSetDuty (mField w)⟩,
  ⟨0x32#8, 0xFF0FFFFF#32, fun w => .chpSetPulse (mField w)⟩,
  ⟨0x33#8, 0xFF0FFFFE#32, fun w => .chpGetFreq (mField w) (iField w)[0]⟩,
  ⟨0x34#8, 0xFF0FFFFE#32, fun w => .chpGetDuty (mField w) (iField w)[0]⟩,
  ⟨0x35#8, 0xFF0FFFFE#32, fun w => .chpGetPulse (mField w) (iField w)[0]⟩]

/-- Opcodes 0x40 to 0x4F: synchronisation, phase, high resolution (30_encoding.md R96, R97). -/
def syncRows : List CommandRow := [
  ⟨0x40#8, 0xFF0FFFFC#32, fun w => .syncSetEvent (mField w) (.ofCode ((iField w).setWidth 2))⟩,
  ⟨0x41#8, 0xFF0FFFFF#32, fun w => .syncGetEvent (mField w)⟩,
  ⟨0x42#8, 0xFF0FFFFF#32, fun w => .syncIsSynchronizing (mField w)⟩,
  ⟨0x43#8, 0xFF0FFFFF#32, fun w => .syncSynchronize (mField w)⟩,
  ⟨0x44#8, 0xFF0FFFFF#32, fun w => .phsSet (mField w)⟩,
  ⟨0x45#8, 0xFF0FFFFE#32, fun w => .phsGet (mField w) (iField w)[0]⟩,
  ⟨0x46#8, 0xFF0FFFFE#32, fun w => .phsSetDir (mField w) (iField w)[0]⟩,
  ⟨0x47#8, 0xFF0FFFFF#32, fun w => .phsGetDir (mField w)⟩,
  ⟨0x48#8, 0xFF0FFFFF#32, fun w => .hrEnable (mField w)⟩,
  ⟨0x49#8, 0xFF0FFFFF#32, fun w => .hrDisable (mField w)⟩,
  ⟨0x4A#8, 0xFF0FFFFF#32, fun w => .hrIsEnabled (mField w)⟩,
  ⟨0x4B#8, 0xFF0FFFFF#32, fun w => .pwmGetResolution (mField w)⟩]

/-- Opcodes 0x50 to 0x5F: event trigger (30_encoding.md R96, R97). -/
def eventTriggerRows : List CommandRow := [
  ⟨0x50#8, 0xFF0EFFF8#32, fun w => .etSetEvent (mField w) (.ofBit (sField w)[0]) ((iField w).setWidth 3)⟩,
  ⟨0x51#8, 0xFF0EFFFF#32, fun w => .etResetEvent (mField w) (.ofBit (sField w)[0])⟩,
  ⟨0x52#8, 0xFF0EFFFF#32, fun w => .etGetEvent (mField w) (.ofBit (sField w)[0])⟩]

/-- Opcodes 0x60 to 0x6F: ADC sequencer and ring (30_encoding.md R96, R97). -/
def adcRows : List CommandRow := [
  ⟨0x60#8, 0xFFFFFFFF#32, fun _ => .adcConstruct⟩,
  ⟨0x61#8, 0xFFFFFFFF#32, fun _ => .adcRelease⟩,
  ⟨0x62#8, 0xFFFFFFFF#32, fun _ => .adcGetClock⟩,
  ⟨0x63#8, 0xFFFFFFFF#32, fun _ => .adcRegisterTask⟩,
  ⟨0x64#8, 0xFF0FFFFC#32, fun w => .adcSetTrigger (mField w) ((iField w).setWidth 2)⟩,
  ⟨0x65#8, 0xFFFFFFFF#32, fun _ => .adcTrigger⟩,
  ⟨0x66#8, 0xFFFFFFFF#32, fun _ => .adcGetFreeIndex⟩,
  ⟨0x67#8, 0xFFFFFFFF#32, fun _ => .adcGetFullIndex⟩,
  ⟨0x68#8, 0xFFFFFFFF#32, fun _ => .adcSetFullIsFree⟩,
  ⟨0x69#8, 0xFFFFFFFF#32, fun _ => .adcIsFilled⟩,
  ⟨0x6A#8, 0xFFFFFFFF#32, fun _ => .adcReadSample⟩,
  ⟨0x6B#8, 0xFFFFFFFF#32, fun _ => .adcGetStatus⟩,
  ⟨0x6C#8, 0xFFFFFFF8#32, fun w => .adcClearStatus ((iField w).setWidth 3)⟩]

/-- The complete command set (30_encoding.md R96). -/
def commandRows : List CommandRow :=
  driverRows ++ timeBaseRows ++ deadBandToggleRows ++ chopperRows ++ syncRows ++ eventTriggerRows ++ adcRows

/-! ### Decoding -/

/-- Why a word is no command (30_encoding.md R95; each finishes `ILLEGAL`). -/
inductive DecodeError where
  /-- The opcode is in no row (30_encoding.md R98). -/
  | reservedOpcode
  /-- A must-be-zero bit is set (30_encoding.md R99). -/
  | mustBeZero
  /-- A field is outside its encoding-fixed set (30_encoding.md R94). -/
  | fieldValue
deriving DecidableEq, Repr

/-- Decoding a command word, in the order of 30_encoding.md R95. -/
def decode (w : Word) : Except DecodeError Instr :=
  match commandRows.find? (fun r => r.opcode == opField w) with
  | none => .error .reservedOpcode
  | some r =>
    if w &&& r.mask = commandWord r.opcode 0#4 0#4 0#16 then
      if (r.make w).wellFormed then .ok (r.make w) else .error .fieldValue
    else .error .mustBeZero

/-- The command the decoder reads from the opcode table's `nbits` low bits of `w`; the block has one command
length, 32 bits (30_encoding.md R90), and no byte order (20_memory.md R75). -/
def decodeTableWord (nbits w : Nat) : Option Instr :=
  match decode (BitVec.ofNat 32 (w % 2 ^ nbits)) with
  | .ok i => some i
  | .error _ => none

/-! ### Encoding -/

/-- The command word of an instruction (30_encoding.md R96, R92: fields are zero-extended). -/
def encode : Instr → Word
  | .nop => commandWord 0x00#8 0#4 0#4 0#16
  | .drvInit => commandWord 0x01#8 0#4 0#4 0#16
  | .clkdivCalc table => commandWord 0x02#8 0#4 ((BitVec.ofBool table.toBit).setWidth 4) 0#16
  | .pwmConstruct m mode => commandWord 0x10#8 m 0#4 (mode.setWidth 16)
  | .pwmRelease m => commandWord 0x11#8 m 0#4 0#16
  | .pwmStart m n => commandWord 0x12#8 m n 0#16
  | .pwmSetTask m n => commandWord 0x13#8 m n 0#16
  | .pwmStop m => commandWord 0x14#8 m 0#4 0#16
  | .pwmGetFreq m set => commandWord 0x15#8 m 0#4 ((BitVec.ofBool set).setWidth 16)
  | .pwmGetDuty m c set => commandWord 0x16#8 m c ((BitVec.ofBool set).setWidth 16)
  | .pwmGetBounds m => commandWord 0x17#8 m 0#4 0#16
  | .pwmGetState m => commandWord 0x18#8 m 0#4 0#16
  | .pwmReadReg m r => commandWord 0x19#8 m r.code 0#16
  | .dbSetRise m => commandWord 0x20#8 m 0#4 0#16
  | .dbSetFall m => commandWord 0x21#8 m 0#4 0#16
  | .dbGetRise m set => commandWord 0x22#8 m 0#4 ((BitVec.ofBool set).setWidth 16)
  | .dbGetFall m set => commandWord 0x23#8 m 0#4 ((BitVec.ofBool set).setWidth 16)
  | .tglDisable m t => commandWord 0x28#8 m (t.code.setWidth 4) 0#16
  | .tglEnable m t status => commandWord 0x29#8 m (t.code.setWidth 4) ((BitVec.ofBool status).setWidth 16)
  | .tglRead m t => commandWord 0x2A#8 m (t.code.setWidth 4) 0#16
  | .chpSetFreq m => commandWord 0x30#8 m 0#4 0#16
  | .chpSetDuty m => commandWord 0x31#8 m 0#4 0#16
  | .chpSetPulse m => commandWord 0x32#8 m 0#4 0#16
  | .chpGetFreq m set => commandWord 0x33#8 m 0#4 ((BitVec.ofBool set).setWidth 16)
  | .chpGetDuty m set => commandWord 0x34#8 m 0#4 ((BitVec.ofBool set).setWidth 16)
  | .chpGetPulse m set => commandWord 0x35#8 m 0#4 ((BitVec.ofBool set).setWidth 16)
  | .syncSetEvent m e => commandWord 0x40#8 m 0#4 (e.code.setWidth 16)
  | .syncGetEvent m => commandWord 0x41#8 m 0#4 0#16
  | .syncIsSynchronizing m => commandWord 0x42#8 m 0#4 0#16
  | .syncSynchronize m => commandWord 0x43#8 m 0#4 0#16
  | .phsSet m => commandWord 0x44#8 m 0#4 0#16
  | .phsGet m set => commandWord 0x45#8 m 0#4 ((BitVec.ofBool set).setWidth 16)
  | .phsSetDir m dir => commandWord 0x46#8 m 0#4 ((BitVec.ofBool dir).setWidth 16)
  | .phsGetDir m => commandWord 0x47#8 m 0#4 0#16
  | .hrEnable m => commandWord 0x48#8 m 0#4 0#16
  | .hrDisable m => commandWord 0x49#8 m 0#4 0#16
  | .hrIsEnabled m => commandWord 0x4A#8 m 0#4 0#16
  | .pwmGetResolution m => commandWord 0x4B#8 m 0#4 0#16
  | .etSetEvent m x e => commandWord 0x50#8 m ((BitVec.ofBool x.toBit).setWidth 4) (e.setWidth 16)
  | .etResetEvent m x => commandWord 0x51#8 m ((BitVec.ofBool x.toBit).setWidth 4) 0#16
  | .etGetEvent m x => commandWord 0x52#8 m ((BitVec.ofBool x.toBit).setWidth 4) 0#16
  | .adcConstruct => commandWord 0x60#8 0#4 0#4 0#16
  | .adcRelease => commandWord 0x61#8 0#4 0#4 0#16
  | .adcGetClock => commandWord 0x62#8 0#4 0#4 0#16
  | .adcRegisterTask => commandWord 0x63#8 0#4 0#4 0#16
  | .adcSetTrigger m src => commandWord 0x64#8 m 0#4 (src.setWidth 16)
  | .adcTrigger => commandWord 0x65#8 0#4 0#4 0#16
  | .adcGetFreeIndex => commandWord 0x66#8 0#4 0#4 0#16
  | .adcGetFullIndex => commandWord 0x67#8 0#4 0#4 0#16
  | .adcSetFullIsFree => commandWord 0x68#8 0#4 0#4 0#16
  | .adcIsFilled => commandWord 0x69#8 0#4 0#4 0#16
  | .adcReadSample => commandWord 0x6A#8 0#4 0#4 0#16
  | .adcGetStatus => commandWord 0x6B#8 0#4 0#4 0#16
  | .adcClearStatus mask => commandWord 0x6C#8 0#4 0#4 (mask.setWidth 16)

end Sys2Proof
end

