-- ==== Sys2Proof/Config.lean ====
section
/-! DEFINITION. What an implementation fixes: the parameters of 00_scope.md R6 with their default column, the
values R6 admits, and the free values. -/

namespace Sys2Proof

/-- The module slots the `M` field can name (30_encoding.md R90); `PWM_MODULES` of them exist. -/
abbrev Config.moduleSlots : Nat := 16
/-- The slots of the channel list, whose ids one argument word packs (30_encoding.md R93); `ADC_MAX_CHANNELS` of
them may be used. -/
abbrev Config.channelSlots : Nat := 8
/-- The result registers the slots can fill, two a slot (46_adc_sequencer.md R259, R261); `ADC_RESULTS` of them
exist. -/
abbrev Config.resultSlots : Nat := 16

/-- `OVERFLOW_POLICY` (00_scope.md R6, 47_ring_buffer.md R292). -/
inductive OverflowPolicy where
  | dropOldest
  | dropNewest
deriving DecidableEq, Repr

/-- The parameters of 00_scope.md R6. "The model takes the following parameters as arguments": they stand in
State, and no step writes them (DESIGN CHOICE, entry 3). -/
structure Params where
  /-- `BLOCK_BASE` (20_memory.md R70, OPEN). -/
  blockBase : Nat
  /-- `PWM_MODULES`, 1..16. -/
  pwmModules : Nat
  /-- `PWM_CHANNELS` (41_pwm_timebase.md R145, R156). -/
  pwmChannels : Nat
  /-- `CTR_BITS`: width of the counter and of the period and compare registers (10_state.md R28). -/
  ctrBits : Nat
  /-- `DB_BITS`: width of the dead-band delay registers (10_state.md R30). -/
  dbBits : Nat
  /-- `PHS_BITS`: width of the phase register (10_state.md R33). -/
  phsBits : Nat
  /-- `HR_BITS`: width of the high-resolution compare extension (10_state.md R28). -/
  hrBits : Nat
  /-- `PWM_COARSE` and `PWM_FINE` (40_clock_divider.md R125). -/
  pwmCoarse : List Nat
  pwmFine : List Nat
  /-- `ADC_COARSE` and `ADC_FINE` (40_clock_divider.md R126). -/
  adcCoarse : List Nat
  adcFine : List Nat
  /-- `CHP_PRESCALE` (43_chopper.md R190). -/
  chpPrescale : Nat
  /-- `CHP_DUTY_BOUNDS` (43_chopper.md R193). -/
  chpDutyBounds : List Nat
  /-- `ADC_MAX_CHANNELS` (46_adc_sequencer.md R259). -/
  adcMaxChannels : Nat
  /-- `ADC_RESULTS` (10_state.md R43). -/
  adcResults : Nat
  /-- `ADC_SIMULTANEOUS` (46_adc_sequencer.md R259, R261). -/
  adcSimultaneous : Bool
  /-- `ADC_RESULT_BITS` (46_adc_sequencer.md R270). -/
  adcResultBits : Nat
  /-- `ADC_BUF_WORDS` (20_memory.md R74). -/
  adcBufWords : Nat
  /-- `OVERFLOW_POLICY` (47_ring_buffer.md R292). -/
  overflowPolicy : OverflowPolicy
  /-- `EMPTY_RESET` (47_ring_buffer.md R284). -/
  emptyReset : Bool
deriving DecidableEq, Repr

/-- The default column of 00_scope.md R6. `BLOCK_BASE` has no default (OPEN); 0 is a DESIGN CHOICE, unsafe to
lean on (entry 4). -/
def Params.default : Params where
  blockBase := 0
  pwmModules := 6
  pwmChannels := 2
  ctrBits := 16
  dbBits := 10
  phsBits := 16
  hrBits := 8
  pwmCoarse := [1, 2, 4, 8, 16, 32, 64, 128]
  pwmFine := [1, 2, 4, 6, 8, 10, 12, 14]
  adcCoarse := [1, 2, 4, 6, 8, 10, 12, 14]
  adcFine := [1, 2, 4, 6, 8, 10, 12, 14, 16, 18, 20, 22, 24, 26, 28, 30]
  chpPrescale := 8
  chpDutyBounds := [1850, 3125, 4375, 5625, 6875, 8125]
  adcMaxChannels := 8
  adcResults := 16
  adcSimultaneous := true
  adcResultBits := 12
  adcBufWords := 4096
  overflowPolicy := .dropOldest
  emptyReset := true

/-- A divisor table of 00_scope.md R6: not empty, ascending, its divisors at least 1, its indices inside the
`2^bits` values of the register that holds one (10_state.md R26, R40). -/
abbrev Params.Table (bits : Nat) (t : List Nat) : Prop :=
  t ≠ [] ∧ t.length ≤ 2 ^ bits ∧ t.Pairwise (· < ·) ∧ ∀ d ∈ t, 1 ≤ d

/-- A register width: a register of this many bits is read as a 32-bit word (41_pwm_timebase.md R160). -/
abbrev Params.Width (bits : Nat) : Prop := 1 ≤ bits ∧ bits ≤ 32

/-- The results of one slot (46_adc_sequencer.md R259). -/
def Params.slotResults (p : Params) : Nat := if p.adcSimultaneous then 2 else 1

/-- The parameter values 00_scope.md R6 and the layouts admit (entry 3): `PWM_MODULES` 1..16; the one or two
channels whose duties an argument word packs (30_encoding.md R93); widths of at most a word, `HR_BITS` wide enough
for every step count (44_sync_phase_hr.md R233); ascending tables; six duty bounds; at most the channel slots of
an argument word, and result registers for all of them; results that fit their registers; the base aligned
(93_implementation_defined.md I9). -/
abbrev Params.Admitted (p : Params) : Prop :=
  p.blockBase % 64 = 0 ∧ 1 ≤ p.pwmModules ∧ p.pwmModules ≤ Config.moduleSlots ∧
  1 ≤ p.pwmChannels ∧ p.pwmChannels ≤ 2 ∧
  Params.Width p.ctrBits ∧ Params.Width p.dbBits ∧ Params.Width p.phsBits ∧ Params.Width p.hrBits ∧ 8 ≤ p.hrBits ∧
  Params.Table 3 p.pwmCoarse ∧ Params.Table 3 p.pwmFine ∧
  Params.Table 3 p.adcCoarse ∧ Params.Table 4 p.adcFine ∧
  1 ≤ p.chpPrescale ∧ p.chpDutyBounds.length = 6 ∧ p.chpDutyBounds.Pairwise (· < ·) ∧
  1 ≤ p.adcMaxChannels ∧ p.adcMaxChannels ≤ Config.channelSlots ∧
  p.adcMaxChannels * p.slotResults ≤ p.adcResults ∧ p.adcResults ≤ Config.resultSlots ∧
  p.adcResultBits ≤ 16

/-- The free 16-bit values: the `n`-th read of a sample word whose written mark is clear
(47_ring_buffer.md R300, "an unconstrained 16-bit draw"; DESIGN CHOICE, entry 8). -/
opaque Config.freeSample : Nat → Half

/-- The free 32-bit values: the `n`-th result the spec does not state, because it does not fit its register or
divides by zero (DESIGN CHOICE, entry 9). -/
opaque Config.freeWord : Nat → Word

end Sys2Proof
end

