-- ==== Sys2Proof/Machine/State.lean ====
section
/-! DEFINITION. The state of the block (10_state.md), its reset (70_reset_and_hazards.md R330), the events of
its history (20_memory.md R83), the inputs that drive it, and the reasons a step can stop. -/

namespace Sys2Proof.Machine

/-! ### Names of the values state holds -/

/-- The status codes (00_scope.md R11). -/
inductive Code where
  | ok
  | rejected
  | unusable
  | illegal
deriving DecidableEq, Repr

/-- The life-cycle state of a PWM module (10_state.md R24). -/
inductive LifeState where
  | uninit
  | constructed
  | running
  | stopped
deriving DecidableEq, Repr

/-- The counting mode of a module (10_state.md R26). -/
inductive Mode where
  | up
  | down
  | updown
deriving DecidableEq, Repr

/-- The counter events (45_event_trigger.md R240). -/
inductive CtrEvent where
  | ctrZero
  | ctrPrd
  | ctruCmpa
  | ctrdCmpa
  | ctruCmpb
  | ctrdCmpb
deriving DecidableEq, Repr

/-- The life-cycle state of the ADC (10_state.md R40). -/
inductive AdcLife where
  | uninit
  | constructed
deriving DecidableEq, Repr

/-- The trigger source of the ADC (10_state.md R41). -/
inductive TrigSrc where
  | software
  | soca
  | socb
deriving DecidableEq, Repr

/-- The state of the ADC sequencer (10_state.md R42). -/
inductive SeqState where
  | idle
  | converting
  | complete
deriving DecidableEq, Repr

/-- What a conversion pass was started by (46_adc_sequencer.md R266, R268). -/
inductive ConvSource where
  | software
  | pwm (m : ModuleIndex) (x : Soc)
deriving DecidableEq, Repr

/-- What a full ring lost (47_ring_buffer.md R290). -/
inductive DropKind where
  | oldest
  | newest
deriving DecidableEq, Repr

/-- The reasons of the fault set (60_exceptions.md R318): a mark in State, not a stop of the machine. -/
inductive FaultMark where
  | unwrittenSample
deriving DecidableEq, Repr

/-- The events the history records (20_memory.md R83). -/
inductive Event where
  | cmd (word arg0 arg1 arg2 arg3 : Word) (code : Code)
  | shadowLoad (m : ModuleIndex)
  | ctrEvent (m : ModuleIndex) (e : CtrEvent)
  | soc (m : ModuleIndex) (x : Soc)
  | syncOut (m : ModuleIndex)
  | syncLoad (m : ModuleIndex) (tbphs : Word) (dir : Bool)
  | convStart (source : ConvSource)
  | convDone (values : List Half)
  | capture (block sequence : BitVec 8)
  | blockDone (block : BitVec 8)
  | drop (kind : DropKind)
deriving DecidableEq, Repr

/-- One atomic step of the world around the block, still to come (10_state.md R20; entry 1): a host access to
the window (20_memory.md R71; `addr` an absolute byte address, `bytes` the width) or an environment step. -/
inductive Input where
  | hostWrite (addr bytes : Nat) (v : Word)
  | hostRead (addr bytes : Nat)
  /-- `EV_CTR m, e` (45_event_trigger.md R246). -/
  | evCtr (m : ModuleIndex) (e : CtrEvent)
  /-- `EV_SYNCIN` (44_sync_phase_hr.md R223). -/
  | evSyncIn
  /-- `EV_CONV v0, v1, ...` (46_adc_sequencer.md R270). -/
  | evConv (v : List Half)
  /-- `EV_CAPTURE` (47_ring_buffer.md R290). -/
  | evCapture
deriving DecidableEq, Repr

/-! ### A value per channel -/

/-- A value for channel 0 and one for channel 1 (compare A and B), or for SOCA and SOCB. -/
structure Pair (α : Type) where
  c0 : α
  c1 : α
deriving DecidableEq, Repr

/-! ### A PWM module -/

/-- The state of one PWM module (10_state.md R24 to R36). `CHPCTL` stands as its four fields (R32). A register whose
width is a parameter stands in a word, whose upper bits stay 0 (entry 3). -/
structure PwmModule where
  /-- R24. -/
  st : LifeState
  /-- R25. -/
  clkEn : Bool
  /-- R26. -/
  mode : Mode
  tbclk : Word
  tbCoarse : BitVec 3
  tbFine : BitVec 3
  /-- R27. -/
  taskValid : Bool
  taskFreq : Word
  taskN : BitVec 2
  taskDuty : Pair Half
  /-- R28: shadow and active copies; `CTR_BITS` bits. -/
  tbprd : Word
  tbprdA : Word
  cmp : Pair Word
  cmpA : Pair Word
  /-- `HR_BITS` bits. -/
  cmpahr : Word
  cmpahrA : Word
  /-- R29. -/
  hrEn : Bool
  hrScale : BitVec 8
  /-- R30, R31. -/
  dbRiseNs : Word
  dbFallNs : Word
  /-- `DB_BITS` bits. -/
  dbred : Word
  dbfed : Word
  dbctl : BitVec 6
  /-- R32. -/
  chpFreqReq : Word
  chpDutyReq : Half
  chpPulseReq : Word
  chpEn : Bool
  oshtwth : BitVec 4
  chpFreq : BitVec 3
  chpDuty : BitVec 3
  /-- R33. -/
  syncEvent : SyncEvent
  phaseNs : Word
  /-- `PHS_BITS` bits. -/
  tbphs : Word
  phsDir : Bool
  phsEn : Bool
  /-- R35. -/
  socSel : Pair (BitVec 3)
  socEn : Pair Bool
deriving DecidableEq, Repr

/-- A module after reset or release (70_reset_and_hazards.md R330, 41_pwm_timebase.md R141): every field 0 but
`syncEvent`, which is `DISABLE`. -/
def PwmModule.reset : PwmModule where
  st := .uninit
  clkEn := false
  mode := .up
  tbclk := 0#32
  tbCoarse := 0#3
  tbFine := 0#3
  taskValid := false
  taskFreq := 0#32
  taskN := 0#2
  taskDuty := ⟨0#16, 0#16⟩
  tbprd := 0#32
  tbprdA := 0#32
  cmp := ⟨0#32, 0#32⟩
  cmpA := ⟨0#32, 0#32⟩
  cmpahr := 0#32
  cmpahrA := 0#32
  hrEn := false
  hrScale := 0#8
  dbRiseNs := 0#32
  dbFallNs := 0#32
  dbred := 0#32
  dbfed := 0#32
  dbctl := 0#6
  chpFreqReq := 0#32
  chpDutyReq := 0#16
  chpPulseReq := 0#32
  chpEn := false
  oshtwth := 0#4
  chpFreq := 0#3
  chpDuty := 0#3
  syncEvent := .disable
  phaseNs := 0#32
  tbphs := 0#32
  phsDir := false
  phsEn := false
  socSel := ⟨0#3, 0#3⟩
  socEn := ⟨false, false⟩

/-! ### The ADC and its ring -/

/-- The state of the ADC sequencer and of the ring (10_state.md R40 to R48). -/
structure AdcState where
  /-- R40. -/
  st : AdcLife
  clock : Word
  coarse : BitVec 3
  fine : BitVec 4
  /-- R41. -/
  trigSrc : TrigSrc
  trigMod : ModuleIndex
  /-- R42. -/
  seqState : SeqState
  intFlag : Bool
  /-- R43. -/
  result : Vector Half Config.resultSlots
  /-- R44. -/
  chsel : Vector (BitVec 4) Config.channelSlots
  maxconv : BitVec 3
  /-- R45. -/
  bound : Bool
  nBlocks : BitVec 8
  nSeq : BitVec 8
  nChan : BitVec 4
  nRes : BitVec 2
  /-- R46. -/
  free : BitVec 8
  full : BitVec 8
  isFilled : Bool
  /-- R47. -/
  seqLeft : BitVec 8
  /-- R48. -/
  blockDone : Bool
  dropped : Bool
  socOverrun : Bool
deriving DecidableEq, Repr

/-- The ADC after reset or release (70_reset_and_hazards.md R330, 46_adc_sequencer.md R257). -/
def AdcState.reset : AdcState where
  st := .uninit
  clock := 0#32
  coarse := 0#3
  fine := 0#4
  trigSrc := .software
  trigMod := 0#4
  seqState := .idle
  intFlag := false
  result := Vector.replicate _ 0#16
  chsel := Vector.replicate _ 0#4
  maxconv := 0#3
  bound := false
  nBlocks := 0#8
  nSeq := 0#8
  nChan := 0#4
  nRes := 0#2
  free := 0#8
  full := 0#8
  isFilled := false
  seqLeft := 0#8
  blockDone := false
  dropped := false
  socOverrun := false

/-! ### The block -/

/-- The state of the block. The last four fields are the model's own (entries 1, 3, 7, 8, 9). -/
structure State where
  /-- The argument registers (10_state.md R21). -/
  arg0 : Word
  arg1 : Word
  arg2 : Word
  arg3 : Word
  /-- The result registers (10_state.md R21). -/
  res0 : Word
  res1 : Word
  /-- `STATUS` (10_state.md R22). -/
  statusCode : Code
  statusOp : BitVec 8
  /-- The driver-level clock table (10_state.md R23). -/
  drvReady : Bool
  sysclk : Word
  /-- The module slots; those below `PWM_MODULES` exist (entry 12). -/
  pwm : Vector PwmModule Config.moduleSlots
  adc : AdcState
  /-- The sample RAM (10_state.md R49): byte cells, word `i` at `2 i` and `2 i + 1` (entry 10). -/
  sram : List Host.Cell
  /-- The words whose written mark is set, rising (10_state.md R49). -/
  written : List Nat
  /-- The event history, oldest first (10_state.md R50). -/
  history : List Event
  /-- The fault set, with no repeats (10_state.md R51). -/
  faults : List FaultMark
  /-- MODEL: the parameters of 00_scope.md R6; no step writes them (entry 3). -/
  params : Params
  /-- MODEL: the steps of the world still to come, the next one first (entry 1). -/
  inputs : List Input
  /-- MODEL: the word the last host read returned (entry 7). -/
  busRead : Option Word
  /-- MODEL: how many free values have been drawn (entries 8 and 9). -/
  draws : Nat
deriving DecidableEq, Repr

/-- Power-on reset of a block with the given parameters (70_reset_and_hazards.md R330). A reset in the middle of
a run ends that run; the next starts here, with an empty history and fault set (R332; entry 16). -/
def State.resetWith (p : Params) : State where
  arg0 := 0#32
  arg1 := 0#32
  arg2 := 0#32
  arg3 := 0#32
  res0 := 0#32
  res1 := 0#32
  statusCode := .ok
  statusOp := 0#8
  drvReady := false
  sysclk := 0#32
  pwm := Vector.replicate _ PwmModule.reset
  adc := AdcState.reset
  sram := []
  written := []
  history := []
  faults := []
  params := p
  inputs := []
  busRead := none
  draws := 0

/-- The block right after power-on, with the default parameters of 00_scope.md R6. -/
def State.reset : State := State.resetWith Params.default

/-! ### Why a step can stop -/

/-- The reasons a step has no next state. All are safe: the spec gives no step there. -/
inductive Fault where
  /-- Raised by a host access that is no aligned 32-bit access inside the window (20_memory.md R71: "the host
  agent is stuck at that access"). Safe. -/
  | accessNotAdmitted
  /-- Raised by an environment input whose enabling condition does not hold (45_event_trigger.md R246,
  46_adc_sequencer.md R270, 47_ring_buffer.md R290): the spec has no such step. Safe. -/
  | eventNotEnabled
  /-- Raised by an `EV_CONV` whose values are not `sampleNumber` draws of `ADC_RESULT_BITS` bits
  (46_adc_sequencer.md R270): the spec has no such step. Safe. -/
  | drawNotAdmitted
  /-- Raised by an access to a word outside the sample RAM (20_memory.md R74); no reachable state gives one
  (47_ring_buffer.md R281). Safe. -/
  | sampleAddress
deriving DecidableEq, Repr

/-- The reasons an instruction has no meaning in the model. -/
inductive Refusal where
  /-- Raised by exec for an instruction that has no meaning yet. Safe. No arm raises it. -/
  | notModelled (mnemonic : String)
deriving DecidableEq, Repr

end Sys2Proof.Machine
end

