-- ==== Sys2Proof/Machine/Arith.lean ====
section
/-! DEFINITION. The integer primitives of 00_scope.md R9 and the formulas built on them alone: the divider, the
tick conversions, period, bounds, compare and high-resolution steps. All are exact natural numbers
(00_scope.md R7); truncated subtraction is met only where a rule's own domain excludes it (entry 17). -/

namespace Sys2Proof.Machine

/-! ### 00_scope.md R9 -/

/-- `floor_div(a, b)` (00_scope.md R9). -/
def floorDiv (a b : Nat) : Nat := a / b

/-- `ceil_div(a, b)` (00_scope.md R9). -/
def ceilDiv (a b : Nat) : Nat := floorDiv (a + b - 1) b

/-- `round_div(a, b)`: half rounds up (00_scope.md R9). -/
def roundDiv (a b : Nat) : Nat := floorDiv (2 * a + b) (2 * b)

/-- `clamp(v, lo, hi)` (00_scope.md R9). -/
def clamp (v lo hi : Nat) : Nat := min (max v lo) hi

/-- `floor_log2(r)` (00_scope.md R9). -/
def floorLog2 (r : Nat) : Nat := Nat.log2 r

/-! ### The divider (40_clock_divider.md R121) -/

/-- What the divider returns: the achieved rate and the table indices. -/
structure DivResult where
  achieved : Nat
  ci : Nat
  fi : Nat
deriving DecidableEq, Repr

/-- Every divisor pair with its achieved rate, in ascending (coarse, fine) index order. -/
def divCandidates (src : Nat) (coarse fine : List Nat) : List DivResult :=
  coarse.zipIdx.flatMap fun c => fine.zipIdx.map fun f => ⟨floorDiv src (c.1 * f.1), c.2, f.2⟩

/-- One turn of the search: a candidate not above the target replaces a strictly slower best. -/
def divPick (tgt : Nat) (best : Option DivResult) (r : DivResult) : Option DivResult :=
  if r.achieved ≤ tgt then
    match best with
    | none => some r
    | some b => if b.achieved < r.achieved then some r else some b
  else best

/-- `DIV(src, tgt, C, F)` (40_clock_divider.md R121); `none` is `FAIL`. -/
def divSearch (src tgt : Nat) (coarse fine : List Nat) : Option DivResult :=
  if src = 0 ∨ tgt = 0 ∨ src < tgt then none
  else (divCandidates src coarse fine).foldl (divPick tgt) none

/-! ### Nanoseconds and ticks -/

/-- `NS2TICKS(ns, clk, bits)` (42_deadband_toggle.md R170). -/
def nsToTicks (ns clk bits : Nat) : Nat :=
  min (roundDiv (ns * clk) 1000000000) (2 ^ bits - 1)

/-- `TICKS2NS(t, clk)` (42_deadband_toggle.md R171). At a zero clock no ticks are 0 ns, the value R174 gives a delay
that was never set (DEDUCED for every other use, entry 24); the quotient of other ticks has no value (entry 9). -/
def ticksToNs (t clk : Nat) : Option Nat :=
  if clk = 0 then (if t = 0 then some 0 else none) else some (roundDiv (t * 1000000000) clk)

/-- The least readback in nanoseconds that 42_deadband_toggle.md R176 allows for `t` ticks that stand, not clamped,
for the requested `x`: `r >= x - (T/2 + 1/2)` with `T = 1e9/clk`. For other ticks R176 allows every value. -/
def readbackFloor (x t clk : Nat) : Nat :=
  if t = roundDiv (x * clk) 1000000000 then x - (1000000000 + clk) / (2 * clk) else 0

/-- A quotient whose divisor may be 0 in a state no run reaches; then it has no value (entry 9). -/
def quotient (a b : Nat) : Option Nat :=
  if b = 0 then none else some (floorDiv a b)

/-! ### Period, bounds, compare, high resolution -/

/-- `PERIOD(md, t, f)` (41_pwm_timebase.md R143). -/
def period (md : Mode) (t f : Nat) : Nat :=
  match md with
  | .up => ceilDiv t f - 1
  | .down => ceilDiv t f - 1
  | .updown => floorDiv (ceilDiv t f) 2

/-- `minFrequency` (41_pwm_timebase.md R144) of a counter of `bits` bits; 65536 is `2^CTR_BITS` and 131071 is
`2^(CTR_BITS + 1) - 1` (DEDUCED, entry 23). -/
def minFrequency (bits : Nat) (md : Mode) (t : Nat) : Nat :=
  match md with
  | .up => max 1 (ceilDiv t (2 ^ bits))
  | .down => max 1 (ceilDiv t (2 ^ bits))
  | .updown => max 1 (ceilDiv t (2 ^ (bits + 1) - 1))

/-- `maxFrequency` (41_pwm_timebase.md R144). -/
def maxFrequency (t : Nat) : Nat := t - 1

/-- `COMPARE(md, p, d)` (41_pwm_timebase.md R146), `d` in 0..10000, for compare registers of `bits` bits: 0xFFFF
is the largest value of one (DEDUCED, entry 23). -/
def compare (bits : Nat) (md : Mode) (p d : Nat) : Nat :=
  match md with
  | .up => floorDiv (p * (10000 - d)) 10000
  | .down => min (floorDiv ((p + 1) * d) 10000) (2 ^ bits - 1)
  | .updown => roundDiv (p * (10000 - d)) 10000

/-- `HRSTEPS(md, p, d, s)` (44_sync_phase_hr.md R233), `d` in 0..10000; 65536 is where the compare register of
`bits` bits clamps (DEDUCED, entry 23). -/
def hrSteps (bits : Nat) (md : Mode) (p d s : Nat) : Nat :=
  match md with
  | .up => floorDiv (((p * (10000 - d)) % 10000) * s) 10000
  | .down =>
    if (p + 1) * d < 2 ^ bits * 10000 then floorDiv ((((p + 1) * d) % 10000) * s) 10000 else 0
  | .updown => floorDiv (((2 * p * (10000 - d) + 10000) % 20000) * s) 20000

/-- The duty readback of PWM_GET_DUTY with set = 0 (41_pwm_timebase.md R156), in centi-percent. -/
def dutyReadback (md : Mode) (p k : Nat) : Option Nat :=
  match md with
  | .up => quotient ((p - min k p) * 10000) p
  | .updown => quotient ((p - min k p) * 10000) p
  | .down => quotient (min k (p + 1) * 10000) (p + 1)

/-- The frequency readback of PWM_GET_FREQ with set = 0 (41_pwm_timebase.md R155). -/
def freqReadback (md : Mode) (t p : Nat) : Option Nat :=
  match md with
  | .up => quotient t (p + 1)
  | .down => quotient t (p + 1)
  | .updown => quotient t (2 * p)

/-! ### The chopper's levels (43_chopper.md) -/

/-- `CHPF(k)` (43_chopper.md R190). -/
def chopperLevel (sysclk prescale k : Nat) : Nat := floorDiv sysclk (prescale * (k + 1))

/-- The smallest `k` in 0..7 with `CHPF(k) <= f` (43_chopper.md R191). -/
def chopperFreqCode (sysclk prescale f : Nat) : Option Nat :=
  (List.range 8).find? fun k => chopperLevel sysclk prescale k ≤ f

/-- `CHPD(d)`: how many bounds `d` reaches (43_chopper.md R193). -/
def chopperDutyCode (bounds : List Nat) (d : Nat) : Nat :=
  (bounds.filter fun b => b ≤ d).length

/-- `CHPW(ns)` (43_chopper.md R195). `n - 1` truncates at 0, which the clamp's lower bound is. -/
def chopperPulseCode (sysclk prescale ns : Nat) : Nat :=
  clamp (roundDiv (ns * sysclk) (1000000000 * prescale) - 1) 0 15

end Sys2Proof.Machine
end

