-- ==== Sys2Proof/Machine/Ops.lean ====
section
/-! DEFINITION. The named operations every meaning is built from: the sample RAM and its written marks, the
module slots, the history, the result registers, free values, and `finish`, the one way a command ends. The
block takes no traps (60_exceptions.md R319, R320): a failure is a status code, so `finish` stands where another
machine's exception entry would. -/

namespace Sys2Proof.Machine

/-- What a step or a command answers. -/
abbrev Result : Type := Host.Outcome State Fault Refusal

/-! ### Sample RAM (20_memory.md R74; 10_state.md R49)

Byte cells in one canonical form: addresses strictly rising. An unlisted byte has no value (its content is
unspecified), so no entry can equal what an unlisted address reads as. -/

/-- The byte at an address; `none` where nothing has been written. -/
def Memory.readByte : List Host.Cell → Nat → Option Byte
  | [], _ => none
  | c :: cs, a => if c.1 = a then some c.2 else Memory.readByte cs a

/-- Write one byte, keeping the addresses strictly rising. -/
def Memory.writeByte : List Host.Cell → Nat → Byte → List Host.Cell
  | [], a, b => [(a, b)]
  | c :: cs, a, b =>
    if a < c.1 then (a, b) :: c :: cs
    else if a = c.1 then (a, b) :: cs
    else c :: Memory.writeByte cs a b

/-- Every listed address is above `a`, and they rise strictly. -/
def Memory.risesAbove : Nat → List Host.Cell → Bool
  | _, [] => true
  | a, c :: cs => decide (a < c.1) && Memory.risesAbove c.1 cs

/-- The canonical form of the sample RAM: addresses strictly rising. -/
def Memory.wf : List Host.Cell → Bool
  | [] => true
  | c :: cs => Memory.risesAbove c.1 cs

/-- `SampleRead(i)` (00_scope.md R10): the 16-bit word `i`, `none` where it has no value. The low byte is at
`2 i` (DESIGN CHOICE, not observable by 20_memory.md R75, entry 10). -/
def Memory.readHalf (mem : List Host.Cell) (i : Nat) : Option Half :=
  match Memory.readByte mem (2 * i), Memory.readByte mem (2 * i + 1) with
  | some lo, some hi => some (hi ++ lo)
  | _, _ => none

/-- The word part of `SampleWrite(i, v)` (00_scope.md R10). -/
def Memory.writeHalf (mem : List Host.Cell) (i : Nat) (v : Half) : List Host.Cell :=
  Memory.writeByte (Memory.writeByte mem (2 * i) (v.extractLsb' 0 8)) (2 * i + 1) (v.extractLsb' 8 8)

/-- Set the written mark of word `i`, keeping the list strictly rising. -/
def Marks.set : List Nat → Nat → List Nat
  | [], i => [i]
  | k :: ks, i =>
    if i < k then i :: k :: ks
    else if i = k then k :: ks
    else k :: Marks.set ks i

/-- `SampleWrite(i, v)` (47_ring_buffer.md R290: it "sets the word's written mark"). -/
def State.sampleWrite (s : State) (i : Nat) (v : Half) : State :=
  { s with sram := Memory.writeHalf s.sram i v, written := Marks.set s.written i }

/-- `SampleWrite` of consecutive words from word `i` on. -/
def State.sampleWrites (s : State) (i : Nat) : List Half → State
  | [] => s
  | v :: vs => (s.sampleWrite i v).sampleWrites (i + 1) vs

/-- Clear every written mark (46_adc_sequencer.md R256, R260). The words keep their content. -/
def State.clearWritten (s : State) : State := { s with written := [] }

/-! ### Module slots -/

/-- Module `m` of the state (10_state.md R24 to R36). -/
def State.pwmAt (s : State) (m : ModuleIndex) : PwmModule := s.pwm[m.toNat]'m.isLt

/-- The state with module `m` replaced. -/
def State.setPwm (s : State) (m : ModuleIndex) (x : PwmModule) : State :=
  { s with pwm := s.pwm.set m.toNat x m.isLt }

/-- The module index is below `PWM_MODULES` (41_pwm_timebase.md R142). -/
def State.moduleExists (s : State) (m : ModuleIndex) : Bool := decide (m.toNat < s.params.pwmModules)

/-- A usable module (41_pwm_timebase.md R142). -/
def State.usable (s : State) (m : ModuleIndex) : Bool :=
  s.moduleExists m && (s.pwmAt m).st != .uninit

/-! ### History and results -/

/-- `record E` (00_scope.md R10, 20_memory.md R83). -/
def State.record (s : State) (e : Event) : State := { s with history := s.history ++ [e] }

/-- `RES[0] <- v`. -/
def State.setRes0 (s : State) (v : Word) : State := { s with res0 := v }

/-- `RES[1] <- v`. -/
def State.setRes1 (s : State) (v : Word) : State := { s with res1 := v }

/-- What a register of `bits` bits holds of a value (10_state.md R28). -/
def regValue (bits v : Nat) : Word := BitVec.ofNat 32 (v % 2 ^ bits)

/-- The next free value the spec leaves open for a result (entry 9), drawn. -/
def State.setRes0Free (s : State) : State :=
  { s with res0 := Config.freeWord s.draws, draws := s.draws + 1 }

/-- `RES[0] <- v` for a natural number `v`: stored where it has a value that fits 32 bits; else the spec states
no result, and it is a free value (DESIGN CHOICE, entry 9). -/
def State.setRes0Nat (s : State) (v : Option Nat) : State :=
  match v with
  | some n => if n < 2 ^ 32 then s.setRes0 (BitVec.ofNat 32 n) else s.setRes0Free
  | none => s.setRes0Free

/-- `RES[0]` of a readback of `t` ticks that stand for the request `x` (42_deadband_toggle.md R174): where it does
not fit 32 bits the free value still meets the bound of R176 (entry 9). -/
def State.setRes0Readback (s : State) (x t clk : Nat) : State :=
  match ticksToNs t clk with
  | none => s.setRes0Free
  | some n =>
    if n < 2 ^ 32 then s.setRes0 (BitVec.ofNat 32 n)
    else
      { s with
        res0 := BitVec.ofNat 32 (max (readbackFloor x t clk) (Config.freeWord s.draws).toNat)
        draws := s.draws + 1 }

/-- As `State.setRes0Nat`, for `RES[1]`. -/
def State.setRes1Nat (s : State) (v : Option Nat) : State :=
  match v with
  | some n => if n < 2 ^ 32 then s.setRes1 (BitVec.ofNat 32 n)
    else { s with res1 := Config.freeWord s.draws, draws := s.draws + 1 }
  | none => { s with res1 := Config.freeWord s.draws, draws := s.draws + 1 }

/-! ### The end of a command -/

/-- `finish(code)` of the command word `w` (60_exceptions.md R310): `STATUS` and the `Cmd` record. -/
def State.finish (s : State) (w : Word) (c : Code) : State :=
  { s with
    statusCode := c
    statusOp := opField w
    history := s.history ++ [.cmd w s.arg0 s.arg1 s.arg2 s.arg3 c] }

/-- End command `i` with a status. The command word is the encoding of `i` (entry 14). -/
def endWith (i : Instr) (c : Code) (s : State) : Result := .next (s.finish (encode i) c)

/-- `finish(OK)` (60_exceptions.md R311). -/
def finishOk (i : Instr) (s : State) : Result := endWith i .ok s

/-- `finish(REJECTED)` (60_exceptions.md R312): `s` is the state before the command. -/
def finishRejected (i : Instr) (s : State) : Result := endWith i .rejected s

/-- `finish(UNUSABLE)` (60_exceptions.md R313): `s` is the state before the command. -/
def finishUnusable (i : Instr) (s : State) : Result := endWith i .unusable s

/-- `finish(ILLEGAL)` (60_exceptions.md R314): `s` is the state before the command. -/
def finishIllegal (i : Instr) (s : State) : Result := endWith i .illegal s

/-- The check at the top of every PWM command but PWM_CONSTRUCT and PWM_GET_STATE (41_pwm_timebase.md R142). -/
def onModule (i : Instr) (m : ModuleIndex) (s : State) (k : PwmModule → Result) : Result :=
  if s.usable m then k (s.pwmAt m) else finishUnusable i s

/-- The check at the top of every ADC command but ADC_CONSTRUCT (46_adc_sequencer.md R255). -/
def onAdc (i : Instr) (s : State) (k : Result) : Result :=
  if s.adc.st = .constructed then k else finishUnusable i s

/-- The ADC check and then the check for a bound task of the ring commands (47_ring_buffer.md R285). -/
def onTask (i : Instr) (s : State) (k : Result) : Result :=
  onAdc i s (if s.adc.bound then k else finishRejected i s)

/-- Replace module `m` and finish `OK`. -/
def updateModule (i : Instr) (m : ModuleIndex) (s : State) (x : PwmModule) : Result :=
  finishOk i (s.setPwm m x)

/-- Write `RES0` and finish `OK`. -/
def answer (i : Instr) (s : State) (v : Word) : Result := finishOk i (s.setRes0 v)

/-- Write `RES0` from a natural number that may have no value, and finish `OK`. -/
def answerNat (i : Instr) (s : State) (v : Option Nat) : Result := finishOk i (s.setRes0Nat v)

end Sys2Proof.Machine
end

