-- ==== Sys2Proof/Machine/Flags.lean ====
section
/-! DEFINITION. The codes of named values, the flags and the words that show them: `STATUS`, the ring's state,
the sticky flags and the ADC status words (10_state.md R22, R46, R48, R52; 47_ring_buffer.md R301). -/

namespace Sys2Proof.Machine

/-! ### Codes -/

/-- The status codes (00_scope.md R11). -/
def Code.bits : Code → BitVec 2
  | .ok => 0#2
  | .rejected => 1#2
  | .unusable => 2#2
  | .illegal => 3#2

/-- The life-cycle codes (10_state.md R24). -/
def LifeState.bits : LifeState → BitVec 2
  | .uninit => 0#2
  | .constructed => 1#2
  | .running => 2#2
  | .stopped => 3#2

/-- The counting-mode codes (10_state.md R26). -/
def Mode.bits : Mode → BitVec 2
  | .up => 0#2
  | .down => 1#2
  | .updown => 2#2

/-- The counting mode of a code; 3 is no mode (30_encoding.md R94). -/
def Mode.ofBits (c : BitVec 2) : Option Mode :=
  match c.toNat with
  | 0 => some .up
  | 1 => some .down
  | 2 => some .updown
  | _ => none

/-- The trigger source of a code; 3 is no source (30_encoding.md R94). -/
def TrigSrc.ofBits (c : BitVec 2) : Option TrigSrc :=
  match c.toNat with
  | 0 => some .software
  | 1 => some .soca
  | 2 => some .socb
  | _ => none

/-- The trigger source that takes the pulses of a SOC line (46_adc_sequencer.md R268: `trigSrc = x + 1`). -/
def TrigSrc.ofSoc : Soc → TrigSrc
  | .soca => .soca
  | .socb => .socb

/-- The sequencer-state codes (10_state.md R42). -/
def SeqState.bits : SeqState → BitVec 2
  | .idle => 0#2
  | .converting => 1#2
  | .complete => 2#2

/-- The counter-event codes (45_event_trigger.md R240). -/
def CtrEvent.code : CtrEvent → BitVec 3
  | .ctrZero => 1#3
  | .ctrPrd => 2#3
  | .ctruCmpa => 4#3
  | .ctrdCmpa => 5#3
  | .ctruCmpb => 6#3
  | .ctrdCmpb => 7#3

/-- The counter event of a code; 0 and 3 are unsupported (45_event_trigger.md R240). -/
def CtrEvent.ofCode (c : BitVec 3) : Option CtrEvent :=
  match c.toNat with
  | 1 => some .ctrZero
  | 2 => some .ctrPrd
  | 4 => some .ctruCmpa
  | 5 => some .ctrdCmpa
  | 6 => some .ctruCmpb
  | 7 => some .ctrdCmpb
  | _ => none

/-- The Boolean result word: 1 for true and 0 for false (00_scope.md R12). -/
def boolWord (b : Bool) : Word := (BitVec.ofBool b).setWidth 32

/-! ### STATUS -/

/-- The `STATUS` register: code in bits 1:0, opcode in bits 15:8, other bits 0 (10_state.md R22). -/
def State.statusWord (s : State) : Word := 0#16 ++ s.statusOp ++ 0#6 ++ s.statusCode.bits

/-! ### The ring (47_ring_buffer.md R280) -/

/-- `sampleNumber = nChan × nRes` (10_state.md R45). -/
def AdcState.sampleNumber (a : AdcState) : Nat := a.nChan.toNat * a.nRes.toNat

/-- The words of one block, `nSeq × sampleNumber` (10_state.md R49). -/
def AdcState.blockWords (a : AdcState) : Nat := a.nSeq.toNat * a.sampleNumber

/-- `inc(x) = (x + 1) mod nBlocks` (47_ring_buffer.md R280). -/
def AdcState.inc (a : AdcState) (x : BitVec 8) : BitVec 8 :=
  BitVec.ofNat 8 ((x.toNat + 1) % a.nBlocks.toNat)

/-- The ring is empty: `isFilled = 0` and `free = full` (47_ring_buffer.md R280). -/
def AdcState.ringEmpty (a : AdcState) : Bool := !a.isFilled && a.free == a.full

/-- How many completed blocks are not freed (10_state.md R53 (c)). -/
def AdcState.fullBlocks (a : AdcState) : Nat :=
  if a.isFilled then a.nBlocks.toNat
  else (a.free.toNat + a.nBlocks.toNat - a.full.toNat) % a.nBlocks.toNat

/-- `ADDR(b, s, k)` (47_ring_buffer.md R281). -/
def AdcState.sampleAddr (a : AdcState) (b s k : Nat) : Nat :=
  b * a.blockWords + s * a.sampleNumber + k

/-- `setFreeIsFull()`, the producer's mutator (47_ring_buffer.md R283). -/
def AdcState.setFreeIsFull (a : AdcState) : AdcState :=
  if a.isFilled then { a with free := a.inc a.free, full := a.inc a.full }
  else { a with free := a.inc a.free, isFilled := a.inc a.free == a.full }

/-- `setFullIsFree()`, the consumer's mutator on a ring that is not empty (47_ring_buffer.md R284). -/
def AdcState.setFullIsFree (p : Params) (a : AdcState) : AdcState :=
  if p.emptyReset && a.free == a.inc a.full && a.seqLeft == 0#8 then
    { a with free := 0#8, full := 0#8, isFilled := false }
  else { a with full := a.inc a.full, isFilled := false }

/-! ### The ADC status words and the sticky flags -/

/-- `RES0` of ADC_GET_STATUS (47_ring_buffer.md R301). -/
def AdcState.statusLow (a : AdcState) : Word :=
  0#16 ++ a.seqLeft ++ 0#1 ++ BitVec.ofBool a.socOverrun ++ BitVec.ofBool a.dropped ++
    BitVec.ofBool a.blockDone ++ BitVec.ofBool a.bound ++ BitVec.ofBool a.intFlag ++ a.seqState.bits

/-- `RES1` of ADC_GET_STATUS (47_ring_buffer.md R301). -/
def AdcState.statusHigh (a : AdcState) : Word :=
  0#15 ++ BitVec.ofBool a.isFilled ++ a.full ++ a.free

/-- The sticky flags whose mask bit is 0 (47_ring_buffer.md R302). -/
def AdcState.clearSticky (a : AdcState) (mask : BitVec 3) : AdcState :=
  { a with
    blockDone := a.blockDone && !mask[0]
    dropped := a.dropped && !mask[1]
    socOverrun := a.socOverrun && !mask[2] }

/-! ### The fault set -/

/-- `raise Fault(reason)`: add a reason to the fault set (60_exceptions.md R318; 10_state.md R51). -/
def State.raiseFault (s : State) (r : FaultMark) : State :=
  if r ∈ s.faults then s else { s with faults := s.faults ++ [r] }

end Sys2Proof.Machine
end

