-- ==== Sys2Proof/Machine/Operands.lean ====
section
/-! DEFINITION. The operand forms: the packed argument words (30_encoding.md R93), channel and SOC pairs, the
Toggle bits (42_deadband_toggle.md R177) and the register views of PWM_READ_REG (10_state.md R32 to R36). -/

namespace Sys2Proof.Machine

/-! ### Pairs -/

/-- The member for channel `c` (0 or 1). -/
def Pair.channel {α : Type} (p : Pair α) (c : Nat) : α := if c = 0 then p.c0 else p.c1

/-- The member of a SOC line. -/
def Pair.ofSoc {α : Type} (p : Pair α) : Soc → α
  | .soca => p.c0
  | .socb => p.c1

/-- The pair with the member of a SOC line replaced. -/
def Pair.setSoc {α : Type} (p : Pair α) (x : Soc) (v : α) : Pair α :=
  match x with
  | .soca => { p with c0 := v }
  | .socb => { p with c1 := v }

/-! ### Packed argument words (30_encoding.md R93) -/

/-- Duty of channel 0: `ARG1[15:0]`. -/
def duty0 (w : Word) : Half := w.extractLsb' 0 16
/-- Duty of channel 1: `ARG1[31:16]`. -/
def duty1 (w : Word) : Half := w.extractLsb' 16 16

/-- `BLOCKS = ARG0[7:0]`. -/
def taskBlocks (w : Word) : BitVec 8 := w.extractLsb' 0 8
/-- `SEQUENCES = ARG0[15:8]`. -/
def taskSequences (w : Word) : BitVec 8 := w.extractLsb' 8 8
/-- `CHANNELS = ARG0[19:16]`. -/
def taskChannels (w : Word) : BitVec 4 := w.extractLsb' 16 4
/-- `RESULTS = ARG0[21:20]`. -/
def taskResults (w : Word) : BitVec 2 := w.extractLsb' 20 2
/-- `ARG0[31:22]`, which must be 0. -/
def taskReserved (w : Word) : BitVec 10 := w.extractLsb' 22 10

/-- The channel id of slot `k`: `ARG1[4k+3:4k]`. -/
def channelId (w : Word) (k : Nat) : BitVec 4 := w.extractLsb' (4 * k) 4

/-- The divisor indices in one result word: coarse in bits 7:0, fine in bits 15:8
(40_clock_divider.md R123). -/
def indexWord (r : DivResult) : Word := 0#16 ++ BitVec.ofNat 8 r.fi ++ BitVec.ofNat 8 r.ci

/-! ### Toggles (42_deadband_toggle.md R177) -/

/-- A one-bit mask of `DBCTL`. -/
def dbctlBit (k : Nat) : BitVec 6 := BitVec.twoPow 6 k

/-- `DBCTL` with bit `k` set to `b` (10_state.md R31). -/
def setDbctlBit (r : BitVec 6) (k : Nat) (b : Bool) : BitVec 6 :=
  if b then r ||| dbctlBit k else r &&& ~~~ dbctlBit k

/-- `BIT(m, t)` of a module (42_deadband_toggle.md R177). -/
def PwmModule.toggle (x : PwmModule) : Toggle → Bool
  | .output0 => x.dbctl.getLsbD 0
  | .output1 => x.dbctl.getLsbD 1
  | .polarity0 => x.dbctl.getLsbD 2
  | .polarity1 => x.dbctl.getLsbD 3
  | .input0 => x.dbctl.getLsbD 4
  | .input1 => x.dbctl.getLsbD 5
  | .chopperEnable => x.chpEn
  | .phaseEnable => x.phsEn

/-- `BIT(m, t) <- b` (42_deadband_toggle.md R178, R179). -/
def PwmModule.setToggle (x : PwmModule) (t : Toggle) (b : Bool) : PwmModule :=
  match t with
  | .output0 => { x with dbctl := setDbctlBit x.dbctl 0 b }
  | .output1 => { x with dbctl := setDbctlBit x.dbctl 1 b }
  | .polarity0 => { x with dbctl := setDbctlBit x.dbctl 2 b }
  | .polarity1 => { x with dbctl := setDbctlBit x.dbctl 3 b }
  | .input0 => { x with dbctl := setDbctlBit x.dbctl 4 b }
  | .input1 => { x with dbctl := setDbctlBit x.dbctl 5 b }
  | .chopperEnable => { x with chpEn := b }
  | .phaseEnable => { x with phsEn := b }

/-! ### Register views (10_state.md R32, R34 to R36) -/

/-- `CHPCTL`: duty in 10:8, frequency in 7:5, first pulse in 4:1, enable in 0 (10_state.md R32). -/
def PwmModule.chpctl (x : PwmModule) : BitVec 11 :=
  x.chpDuty ++ x.chpFreq ++ x.oshtwth ++ BitVec.ofBool x.chpEn

/-- `CTRMODE`: the counting mode while `Running`, else 3 (10_state.md R34). -/
def PwmModule.ctrMode (x : PwmModule) : BitVec 2 :=
  if x.st = .running then x.mode.bits else 3#2

/-- `TBCTL` (10_state.md R34). -/
def PwmModule.tbctl (x : PwmModule) : Half :=
  0#2 ++ BitVec.ofBool x.phsDir ++ x.tbCoarse ++ x.tbFine ++ 0#1 ++ x.syncEvent.code ++ 0#1 ++
    BitVec.ofBool x.phsEn ++ x.ctrMode

/-- `ETSEL` (10_state.md R35). -/
def PwmModule.etsel (x : PwmModule) : Half :=
  BitVec.ofBool x.socEn.c1 ++ x.socSel.c1 ++ BitVec.ofBool x.socEn.c0 ++ x.socSel.c0 ++ 0#8

/-- `HRCNFG` (10_state.md R36). -/
def PwmModule.hrcnfg (x : PwmModule) : Half := x.hrScale ++ 0#7 ++ BitVec.ofBool x.hrEn

/-- `zext_32(REG(m, S))` (41_pwm_timebase.md R160). -/
def PwmModule.reg (x : PwmModule) : PwmReg → Word
  | .tbprd => x.tbprd
  | .tbprdA => x.tbprdA
  | .cmpa => x.cmp.c0
  | .cmpaA => x.cmpA.c0
  | .cmpb => x.cmp.c1
  | .cmpbA => x.cmpA.c1
  | .cmpahr => x.cmpahr
  | .cmpahrA => x.cmpahrA
  | .dbred => x.dbred
  | .dbfed => x.dbfed
  | .dbctl => x.dbctl.setWidth 32
  | .tbphs => x.tbphs
  | .chpctl => x.chpctl.setWidth 32
  | .tbctl => x.tbctl.setWidth 32
  | .etsel => x.etsel.setWidth 32
  | .hrcnfg => x.hrcnfg.setWidth 32

/-! ### Task validation -/

/-- `isTask(m, n, f, d)` (41_pwm_timebase.md R145). -/
def PwmModule.isTask (p : Params) (x : PwmModule) (n : BitVec 4) (f : Word) (d0 d1 : Half) : Bool :=
  decide (n.toNat ≤ p.pwmChannels ∧
    minFrequency p.ctrBits x.mode x.tbclk.toNat ≤ f.toNat ∧ f.toNat ≤ maxFrequency x.tbclk.toNat ∧
    (0 < n.toNat → d0.toNat ≤ 10000) ∧ (1 < n.toNat → d1.toNat ≤ 10000))

/-- ADC task validation (46_adc_sequencer.md R259). -/
def adcTaskValid (p : Params) (w : Word) : Bool :=
  decide (taskReserved w = 0#10 ∧
    1 ≤ (taskBlocks w).toNat ∧ 1 ≤ (taskSequences w).toNat ∧
    1 ≤ (taskChannels w).toNat ∧ (taskChannels w).toNat ≤ p.adcMaxChannels ∧
    (taskResults w).toNat = p.slotResults ∧
    (taskBlocks w).toNat * (taskSequences w).toNat * (taskChannels w).toNat * (taskResults w).toNat
      ≤ p.adcBufWords)

end Sys2Proof.Machine
end

