-- ==== Sys2Proof/Machine/Driver.lean ====
section
/-! DEFINITION. The driver and divider commands (40_clock_divider.md; NOP of 30_encoding.md R105). -/

namespace Sys2Proof.Machine

/-- The divider of the PWM time base (40_clock_divider.md R125). -/
def pwmDivide (p : Params) (src tgt : Nat) : Option DivResult :=
  divSearch src tgt p.pwmCoarse p.pwmFine

/-- The divider of the ADC clock (40_clock_divider.md R126). -/
def adcDivide (p : Params) (src tgt : Nat) : Option DivResult :=
  divSearch src tgt p.adcCoarse p.adcFine

/-- The divider of a table pair (40_clock_divider.md R123). -/
def divideBy (p : Params) : DivTable → Nat → Nat → Option DivResult
  | .pwm => pwmDivide p
  | .adc => adcDivide p

/-- Write the divider's answer to the result registers (40_clock_divider.md R123). -/
def State.setDivResult (s : State) (r : DivResult) : State :=
  (s.setRes0 (BitVec.ofNat 32 r.achieved)).setRes1 (indexWord r)

/-- NOP (30_encoding.md R105). -/
def execNop (s : State) : Result := finishOk .nop s

/-- DRV_INIT (40_clock_divider.md R122). -/
def execDrvInit (s : State) : Result :=
  if s.drvReady then finishRejected .drvInit s
  else if s.arg0 = 0#32 then finishRejected .drvInit s
  else finishOk .drvInit { s with sysclk := s.arg0, drvReady := true }

/-- CLKDIV_CALC (40_clock_divider.md R123). -/
def execClkdivCalc (table : DivTable) (s : State) : Result :=
  match divideBy s.params table s.arg0.toNat s.arg1.toNat with
  | none => finishRejected (.clkdivCalc table) s
  | some r => finishOk (.clkdivCalc table) (s.setDivResult r)

end Sys2Proof.Machine
end

