-- ==== Sys2Proof/Machine/AdcSequencer.lean ====
section
/-! DEFINITION. The ADC sequencer's commands and the start of a pass (46_adc_sequencer.md). -/

namespace Sys2Proof.Machine

/-! ### Starting a pass -/

/-- `START_CONV(src)` (46_adc_sequencer.md R267): a request on a busy sequencer is lost and flagged. -/
def State.startConv (s : State) (src : ConvSource) : State :=
  if s.adc.seqState = .idle then
    ({ s with adc := { s.adc with seqState := .converting } }).record (.convStart src)
  else { s with adc := { s.adc with socOverrun := true } }

/-- A PWM pulse starts a pass exactly under these conditions (46_adc_sequencer.md R268). -/
def AdcState.takesSoc (a : AdcState) (m : ModuleIndex) (x : Soc) : Bool :=
  decide (a.st = .constructed ∧ a.bound = true ∧ a.trigSrc = TrigSrc.ofSoc x ∧ a.trigMod = m)

/-- `SOC(m, x)` (45_event_trigger.md R247, 46_adc_sequencer.md R268). -/
def State.socPulse (s : State) (m : ModuleIndex) (x : Soc) : State :=
  if s.adc.takesSoc m x then (s.record (.soc m x)).startConv (.pwm m x) else s.record (.soc m x)

/-! ### The order of a pass (46_adc_sequencer.md R261, R269) -/

/-- The channels of a pass in their order, `CHSEL[0] .. CHSEL[MAXCONV]` (46_adc_sequencer.md R269). -/
def AdcState.passChannels (a : AdcState) : List (BitVec 4) :=
  a.chsel.toList.take (a.maxconv.toNat + 1)

/-- The result register of the `j`-th result of slot `k`: `RESULT[2k]` and `RESULT[2k+1]` in simultaneous
sampling (46_adc_sequencer.md R261). -/
def AdcState.resultIndex (a : AdcState) (k j : Nat) : Nat := k * a.nRes.toNat + j

/-! ### Life cycle and clock -/

/-- ADC_CONSTRUCT (46_adc_sequencer.md R256). -/
def execAdcConstruct (s : State) : Result :=
  if s.adc.st = .uninit ∧ s.drvReady then
    match adcDivide s.params s.sysclk.toNat s.arg0.toNat with
    | none => finishUnusable .adcConstruct s
    | some r =>
      finishOk .adcConstruct
        ({ s.clearWritten with
            adc :=
              { AdcState.reset with
                st := .constructed
                clock := BitVec.ofNat 32 r.achieved
                coarse := BitVec.ofNat 3 r.ci
                fine := BitVec.ofNat 4 r.fi } }.setDivResult r)
  else finishUnusable .adcConstruct s

/-- ADC_RELEASE (46_adc_sequencer.md R257): the sample RAM and its marks are unchanged. -/
def execAdcRelease (s : State) : Result :=
  onAdc .adcRelease s (finishOk .adcRelease { s with adc := AdcState.reset })

/-- ADC_GET_CLOCK (46_adc_sequencer.md R258). -/
def execAdcGetClock (s : State) : Result :=
  onAdc .adcGetClock s (answer .adcGetClock s s.adc.clock)

/-! ### Task registration -/

/-- The channel-select registers of a task (46_adc_sequencer.md R260). -/
def taskChsel (channels : Nat) (list : Word) : Vector (BitVec 4) Config.channelSlots :=
  let slot := fun k => if k < channels then channelId list k else 0#4
  #v[slot 0, slot 1, slot 2, slot 3, slot 4, slot 5, slot 6, slot 7]

/-- The ADC with the task of the argument words bound (46_adc_sequencer.md R260). -/
def AdcState.bindTask (a : AdcState) (dims list : Word) : AdcState :=
  { a with
    chsel := taskChsel (taskChannels dims).toNat list
    maxconv := BitVec.ofNat 3 ((taskChannels dims).toNat - 1)
    nBlocks := taskBlocks dims
    nSeq := taskSequences dims
    nChan := taskChannels dims
    nRes := taskResults dims
    free := 0#8
    full := 0#8
    isFilled := false
    seqLeft := 0#8
    blockDone := false
    dropped := false
    socOverrun := false
    bound := true }

/-- ADC_REGISTER_TASK (46_adc_sequencer.md R260). -/
def execAdcRegisterTask (s : State) : Result :=
  onAdc .adcRegisterTask s
    (if s.adc.bound then finishRejected .adcRegisterTask s
     else if adcTaskValid s.params s.arg0 then
       finishOk .adcRegisterTask { s.clearWritten with adc := s.adc.bindTask s.arg0 s.arg1 }
     else finishRejected .adcRegisterTask s)

/-! ### Triggers -/

/-- ADC_SET_TRIGGER (46_adc_sequencer.md R265; source 3 is `ILLEGAL` by 30_encoding.md R94). -/
def execAdcSetTrigger (m : ModuleIndex) (src : BitVec 2) (s : State) : Result :=
  match TrigSrc.ofBits src with
  | none => finishIllegal (.adcSetTrigger m src) s
  | some .software =>
    onAdc (.adcSetTrigger m src) s
      (finishOk (.adcSetTrigger m src)
        { s with adc := { s.adc with trigSrc := .software, trigMod := 0#4 } })
  | some ts =>
    onAdc (.adcSetTrigger m src) s
      (if s.moduleExists m then
        finishOk (.adcSetTrigger m src) { s with adc := { s.adc with trigSrc := ts, trigMod := m } }
       else finishRejected (.adcSetTrigger m src) s)

/-- ADC_TRIGGER (46_adc_sequencer.md R266). -/
def execAdcTrigger (s : State) : Result :=
  onTask .adcTrigger s (finishOk .adcTrigger (s.startConv .software))

end Sys2Proof.Machine
end

