-- ==== Sys2Proof/Machine/Chopper.lean ====
section
/-! DEFINITION. The chopper commands (43_chopper.md). -/

namespace Sys2Proof.Machine

/-- CHP_SET_FREQ (43_chopper.md R192): no level at or below the request is `REJECTED`. -/
def execChpSetFreq (m : ModuleIndex) (s : State) : Result :=
  onModule (.chpSetFreq m) m s fun x =>
    match chopperFreqCode s.sysclk.toNat s.params.chpPrescale s.arg0.toNat with
    | none => finishRejected (.chpSetFreq m) s
    | some k =>
      updateModule (.chpSetFreq m) m s { x with chpFreqReq := s.arg0, chpFreq := BitVec.ofNat 3 k }

/-- CHP_SET_DUTY (43_chopper.md R194). -/
def execChpSetDuty (m : ModuleIndex) (s : State) : Result :=
  onModule (.chpSetDuty m) m s fun x =>
    if s.arg0.toNat ≤ 10000 then
      updateModule (.chpSetDuty m) m s
        { x with
          chpDutyReq := s.arg0.setWidth 16
          chpDuty := BitVec.ofNat 3 (chopperDutyCode s.params.chpDutyBounds s.arg0.toNat) }
    else finishRejected (.chpSetDuty m) s

/-- CHP_SET_PULSE (43_chopper.md R196). -/
def execChpSetPulse (m : ModuleIndex) (s : State) : Result :=
  onModule (.chpSetPulse m) m s fun x =>
    updateModule (.chpSetPulse m) m s
      { x with
        chpPulseReq := s.arg0
        oshtwth :=
          BitVec.ofNat 4 (chopperPulseCode s.sysclk.toNat s.params.chpPrescale s.arg0.toNat) }

/-- CHP_GET_FREQ (43_chopper.md R197). -/
def execChpGetFreq (m : ModuleIndex) (set : Bool) (s : State) : Result :=
  onModule (.chpGetFreq m set) m s fun x =>
    if set then answer (.chpGetFreq m set) s x.chpFreqReq
    else answerNat (.chpGetFreq m set) s
      (some (chopperLevel s.sysclk.toNat s.params.chpPrescale x.chpFreq.toNat))

/-- CHP_GET_DUTY (43_chopper.md R198). -/
def execChpGetDuty (m : ModuleIndex) (set : Bool) (s : State) : Result :=
  onModule (.chpGetDuty m set) m s fun x =>
    if set then answer (.chpGetDuty m set) s (x.chpDutyReq.setWidth 32)
    else answerNat (.chpGetDuty m set) s (some ((x.chpDuty.toNat + 1) * 1250))

/-- CHP_GET_PULSE (43_chopper.md R199). -/
def execChpGetPulse (m : ModuleIndex) (set : Bool) (s : State) : Result :=
  onModule (.chpGetPulse m set) m s fun x =>
    if set then answer (.chpGetPulse m set) s x.chpPulseReq
    else answerNat (.chpGetPulse m set) s
      (ticksToNs ((x.oshtwth.toNat + 1) * s.params.chpPrescale) s.sysclk.toNat)

end Sys2Proof.Machine
end

