-- ==== Sys2Proof/Machine/DeadBand.lean ====
section
/-! DEFINITION. The dead-band and Toggle commands (42_deadband_toggle.md). -/

namespace Sys2Proof.Machine

/-! ### Dead-band -/

/-- DB_SET_RISE (42_deadband_toggle.md R172). -/
def execDbSetRise (m : ModuleIndex) (s : State) : Result :=
  onModule (.dbSetRise m) m s fun x =>
    updateModule (.dbSetRise m) m s
      { x with
        dbRiseNs := s.arg0
        dbred := BitVec.ofNat 32 (nsToTicks s.arg0.toNat x.tbclk.toNat s.params.dbBits) }

/-- DB_SET_FALL (42_deadband_toggle.md R173). -/
def execDbSetFall (m : ModuleIndex) (s : State) : Result :=
  onModule (.dbSetFall m) m s fun x =>
    updateModule (.dbSetFall m) m s
      { x with
        dbFallNs := s.arg0
        dbfed := BitVec.ofNat 32 (nsToTicks s.arg0.toNat x.tbclk.toNat s.params.dbBits) }

/-- DB_GET_RISE (42_deadband_toggle.md R174, R176). -/
def execDbGetRise (m : ModuleIndex) (set : Bool) (s : State) : Result :=
  onModule (.dbGetRise m set) m s fun x =>
    if set then answer (.dbGetRise m set) s x.dbRiseNs
    else finishOk (.dbGetRise m set)
      (s.setRes0Readback x.dbRiseNs.toNat x.dbred.toNat x.tbclk.toNat)

/-- DB_GET_FALL (42_deadband_toggle.md R175; as DB_GET_RISE). -/
def execDbGetFall (m : ModuleIndex) (set : Bool) (s : State) : Result :=
  onModule (.dbGetFall m set) m s fun x =>
    if set then answer (.dbGetFall m set) s x.dbFallNs
    else finishOk (.dbGetFall m set)
      (s.setRes0Readback x.dbFallNs.toNat x.dbfed.toNat x.tbclk.toNat)

/-! ### Toggles -/

/-- TGL_DISABLE (42_deadband_toggle.md R178): read the bit, clear it, return the old value. -/
def execTglDisable (m : ModuleIndex) (t : Toggle) (s : State) : Result :=
  onModule (.tglDisable m t) m s fun x =>
    answer (.tglDisable m t) (s.setPwm m (x.setToggle t false)) (boolWord (x.toggle t))

/-- TGL_ENABLE (42_deadband_toggle.md R179): `enable(false)` is a no-op. -/
def execTglEnable (m : ModuleIndex) (t : Toggle) (status : Bool) (s : State) : Result :=
  onModule (.tglEnable m t status) m s fun x =>
    if status then updateModule (.tglEnable m t status) m s (x.setToggle t true)
    else finishOk (.tglEnable m t status) s

/-- TGL_READ (42_deadband_toggle.md R181). -/
def execTglRead (m : ModuleIndex) (t : Toggle) (s : State) : Result :=
  onModule (.tglRead m t) m s fun x => answer (.tglRead m t) s (boolWord (x.toggle t))

end Sys2Proof.Machine
end

