-- ==== Sys2Proof/Machine/EventTrigger.lean ====
section
/-! DEFINITION. The event-trigger commands (45_event_trigger.md). -/

namespace Sys2Proof.Machine

/-- ET_SET_EVENT (45_event_trigger.md R242): codes 0 and 3 are `REJECTED`. Its reset-then-set writes are one
step, so the enable ends set. -/
def execEtSetEvent (m : ModuleIndex) (x : Soc) (e : BitVec 3) (s : State) : Result :=
  onModule (.etSetEvent m x e) m s fun p =>
    match CtrEvent.ofCode e with
    | none => finishRejected (.etSetEvent m x e) s
    | some _ =>
      updateModule (.etSetEvent m x e) m s
        { p with socSel := p.socSel.setSoc x e, socEn := p.socEn.setSoc x true }

/-- ET_RESET_EVENT (45_event_trigger.md R243): the selection keeps its value. -/
def execEtResetEvent (m : ModuleIndex) (x : Soc) (s : State) : Result :=
  onModule (.etResetEvent m x) m s fun p =>
    updateModule (.etResetEvent m x) m s { p with socEn := p.socEn.setSoc x false }

/-- ET_GET_EVENT (45_event_trigger.md R244). -/
def execEtGetEvent (m : ModuleIndex) (x : Soc) (s : State) : Result :=
  onModule (.etGetEvent m x) m s fun p =>
    answer (.etGetEvent m x) s
      (if p.socEn.ofSoc x then (p.socSel.ofSoc x).setWidth 32 else 0#32)

end Sys2Proof.Machine
end

