-- ==== Sys2Proof/Machine/Ring.lean ====
section
/-! DEFINITION. The ring's commands (47_ring_buffer.md). -/

namespace Sys2Proof.Machine

/-- ADC_GET_FREE_INDEX (47_ring_buffer.md R285): -1 on a full ring (20_memory.md R76). -/
def execAdcGetFreeIndex (s : State) : Result :=
  onTask .adcGetFreeIndex s
    (answer .adcGetFreeIndex s
      (if s.adc.isFilled then 0xFFFFFFFF#32 else s.adc.free.setWidth 32))

/-- ADC_GET_FULL_INDEX (47_ring_buffer.md R286): -1 on an empty ring (20_memory.md R76). -/
def execAdcGetFullIndex (s : State) : Result :=
  onTask .adcGetFullIndex s
    (answer .adcGetFullIndex s
      (if s.adc.ringEmpty then 0xFFFFFFFF#32 else s.adc.full.setWidth 32))

/-- ADC_SET_FULL_IS_FREE (47_ring_buffer.md R291). -/
def execAdcSetFullIsFree (s : State) : Result :=
  onTask .adcSetFullIsFree s
    (if s.adc.ringEmpty then finishRejected .adcSetFullIsFree s
     else finishOk .adcSetFullIsFree { s with adc := s.adc.setFullIsFree s.params })

/-- ADC_IS_FILLED (47_ring_buffer.md R287). -/
def execAdcIsFilled (s : State) : Result :=
  onTask .adcIsFilled s (answer .adcIsFilled s (boolWord s.adc.isFilled))

/-- The word ADC_READ_SAMPLE addresses: block `ARG0`, offset `ARG1` (47_ring_buffer.md R300). -/
def State.readAddr (s : State) : Nat := s.arg0.toNat * s.adc.blockWords + s.arg1.toNat

/-- The value of word `i`: its content, or a free value where nothing has been written to it
(47_ring_buffer.md R300, entry 8). -/
def State.sampleRead (s : State) (i : Nat) : Half :=
  (Memory.readHalf s.sram i).getD (Config.freeSample s.draws)

/-- Read word `i` into `RES0` (47_ring_buffer.md R300): a word whose mark is clear raises the fault mark and
gives a free value. -/
def State.readSample (s : State) (i : Nat) : State :=
  if i ∈ s.written then
    { s with
      res0 := (s.sampleRead i).setWidth 32
      draws := if (Memory.readHalf s.sram i).isSome then s.draws else s.draws + 1 }
  else
    { s.raiseFault .unwrittenSample with
      res0 := (Config.freeSample s.draws).setWidth 32
      draws := s.draws + 1 }

/-- ADC_READ_SAMPLE (47_ring_buffer.md R300). A word outside the sample RAM does not exist
(20_memory.md R74); in every reachable state the checks keep the word inside (47_ring_buffer.md R281). -/
def execAdcReadSample (s : State) : Result :=
  onTask .adcReadSample s
    (if s.arg0.toNat < s.adc.nBlocks.toNat ∧ s.arg1.toNat < s.adc.blockWords then
      if s.readAddr < s.params.adcBufWords then finishOk .adcReadSample (s.readSample s.readAddr)
      else .fault .sampleAddress
     else finishRejected .adcReadSample s)

/-- ADC_GET_STATUS (47_ring_buffer.md R301). -/
def execAdcGetStatus (s : State) : Result :=
  onAdc .adcGetStatus s
    (finishOk .adcGetStatus ((s.setRes0 s.adc.statusLow).setRes1 s.adc.statusHigh))

/-- ADC_CLEAR_STATUS (47_ring_buffer.md R302). -/
def execAdcClearStatus (mask : BitVec 3) (s : State) : Result :=
  onAdc (.adcClearStatus mask) s
    (finishOk (.adcClearStatus mask) { s with adc := s.adc.clearSticky mask })

end Sys2Proof.Machine
end

