-- ==== Sys2Proof/Machine/Sync.lean ====
section
/-! DEFINITION. Synchronisation, phase and high resolution (44_sync_phase_hr.md). -/

namespace Sys2Proof.Machine

/-! ### The sync chain (44_sync_phase_hr.md R220 to R222)

A sync pulse changes no state but the history, so the chain is the list of events it records. -/

/-- The records of `SYNC_IN` on the `fuel` modules from `m` on, `fuel` of them being left in the chain
(44_sync_phase_hr.md R222): an `Uninit` module stops the chain, and so does one whose event is not `INPUT`. -/
def State.syncInEvents (s : State) : (fuel : Nat) → (m : ModuleIndex) → List Event
  | 0, _ => []
  | fuel + 1, m =>
    let x := s.pwmAt m
    if x.st = .uninit then []
    else
      (if x.st = .running ∧ x.phsEn then [.syncLoad m x.tbphs x.phsDir] else []) ++
      (if x.syncEvent = .input then .syncOut m :: s.syncInEvents fuel (m + 1#4) else [])

/-- The modules after `m` in the chain (44_sync_phase_hr.md R220). -/
def State.modulesAfter (s : State) (m : ModuleIndex) : Nat := s.params.pwmModules - (m.toNat + 1)

/-- The records of `SYNC_PULSE(m)` (44_sync_phase_hr.md R221). -/
def State.syncPulseEvents (s : State) (m : ModuleIndex) : List Event :=
  .syncOut m :: s.syncInEvents (s.modulesAfter m) (m + 1#4)

/-- Append records to the history in order. -/
def State.recordAll (s : State) (es : List Event) : State := { s with history := s.history ++ es }

/-- `SYNC_PULSE(m)` (44_sync_phase_hr.md R221). -/
def State.syncPulse (s : State) (m : ModuleIndex) : State := s.recordAll (s.syncPulseEvents m)

/-- `SYNC_IN(0)`, the effect of the external sync input (44_sync_phase_hr.md R223). -/
def State.syncIn (s : State) : State := s.recordAll (s.syncInEvents s.params.pwmModules 0#4)

/-! ### Synchronisation commands -/

/-- SYNC_SET_EVENT (44_sync_phase_hr.md R211). -/
def execSyncSetEvent (m : ModuleIndex) (e : SyncEvent) (s : State) : Result :=
  onModule (.syncSetEvent m e) m s fun x =>
    updateModule (.syncSetEvent m e) m s { x with syncEvent := e }

/-- SYNC_GET_EVENT (44_sync_phase_hr.md R212). -/
def execSyncGetEvent (m : ModuleIndex) (s : State) : Result :=
  onModule (.syncGetEvent m) m s fun x =>
    answer (.syncGetEvent m) s (x.syncEvent.code.setWidth 32)

/-- SYNC_IS_SYNCHRONIZING (44_sync_phase_hr.md R213). -/
def execSyncIsSynchronizing (m : ModuleIndex) (s : State) : Result :=
  onModule (.syncIsSynchronizing m) m s fun x =>
    answer (.syncIsSynchronizing m) s (boolWord (x.syncEvent != .disable))

/-- SYNC_SYNCHRONIZE (44_sync_phase_hr.md R214). -/
def execSyncSynchronize (m : ModuleIndex) (s : State) : Result :=
  onModule (.syncSynchronize m) m s fun x =>
    if x.syncEvent = .disable then answer (.syncSynchronize m) s (boolWord false)
    else answer (.syncSynchronize m) (s.syncPulse m) (boolWord true)

/-! ### Phase -/

/-- PHS_SET (44_sync_phase_hr.md R225): silently locked while high resolution is on. -/
def execPhsSet (m : ModuleIndex) (s : State) : Result :=
  onModule (.phsSet m) m s fun x =>
    if x.hrEn then finishOk (.phsSet m) s
    else
      updateModule (.phsSet m) m s
        { x with
          phaseNs := s.arg0
          tbphs := BitVec.ofNat 32 (nsToTicks s.arg0.toNat x.tbclk.toNat s.params.phsBits) }

/-- PHS_GET (44_sync_phase_hr.md R226). -/
def execPhsGet (m : ModuleIndex) (set : Bool) (s : State) : Result :=
  onModule (.phsGet m set) m s fun x =>
    if set then answer (.phsGet m set) s x.phaseNs
    else answerNat (.phsGet m set) s (ticksToNs x.tbphs.toNat x.tbclk.toNat)

/-- PHS_SET_DIR (44_sync_phase_hr.md R227). -/
def execPhsSetDir (m : ModuleIndex) (dir : Bool) (s : State) : Result :=
  onModule (.phsSetDir m dir) m s fun x =>
    updateModule (.phsSetDir m dir) m s { x with phsDir := dir }

/-- PHS_GET_DIR (44_sync_phase_hr.md R228). -/
def execPhsGetDir (m : ModuleIndex) (s : State) : Result :=
  onModule (.phsGetDir m) m s fun x => answer (.phsGetDir m) s (boolWord x.phsDir)

/-! ### High resolution -/

/-- A module with high resolution enabled at scale `k` (44_sync_phase_hr.md R230). -/
def PwmModule.enableHr (p : Params) (x : PwmModule) (k : Nat) : PwmModule :=
  { x with
    hrScale := BitVec.ofNat 8 k
    hrEn := true
    cmpahr :=
      if x.taskValid ∧ 0 < x.taskN.toNat then
        regValue p.hrBits (hrSteps p.ctrBits x.mode x.tbprd.toNat x.taskDuty.c0.toNat k)
      else x.cmpahr }

/-- HR_ENABLE (44_sync_phase_hr.md R230). -/
def execHrEnable (m : ModuleIndex) (s : State) : Result :=
  onModule (.hrEnable m) m s fun x =>
    if s.arg0.toNat = 0 ∨ 255 < s.arg0.toNat then finishRejected (.hrEnable m) s
    else updateModule (.hrEnable m) m s (x.enableHr s.params s.arg0.toNat)

/-- HR_DISABLE (44_sync_phase_hr.md R231). -/
def execHrDisable (m : ModuleIndex) (s : State) : Result :=
  onModule (.hrDisable m) m s fun x =>
    updateModule (.hrDisable m) m s { x with hrEn := false, cmpahr := 0#32 }

/-- HR_IS_ENABLED (44_sync_phase_hr.md R232). -/
def execHrIsEnabled (m : ModuleIndex) (s : State) : Result :=
  onModule (.hrIsEnabled m) m s fun x => answer (.hrIsEnabled m) s (boolWord x.hrEn)

/-- The resolution `R` of PWM_GET_RESOLUTION (44_sync_phase_hr.md R234); no value for a zero task frequency,
which no run reaches (entry 9). -/
def PwmModule.resolution (x : PwmModule) : Option Nat :=
  quotient (x.tbclk.toNat * (if x.hrEn then x.hrScale.toNat else 1)) x.taskFreq.toNat

/-- `RES[1] <- R; RES[0] <- floor_log2(R)` (44_sync_phase_hr.md R234). Where `R` has no value, it is the free
value of `RES1`, and `RES0` is computed from it (entry 9). -/
def State.setResolution (s : State) (r : Option Nat) : State :=
  let t := s.setRes1Nat r
  let n := r.getD t.res1.toNat
  t.setRes0Nat (if n = 0 then none else some (floorLog2 n))

/-- PWM_GET_RESOLUTION (44_sync_phase_hr.md R234). -/
def execPwmGetResolution (m : ModuleIndex) (s : State) : Result :=
  onModule (.pwmGetResolution m) m s fun x =>
    if x.taskValid then finishOk (.pwmGetResolution m) (s.setResolution x.resolution)
    else finishRejected (.pwmGetResolution m) s

end Sys2Proof.Machine
end

