-- ==== Sys2Proof/Machine/TimeBase.lean ====
section
/-! DEFINITION. The PWM time base commands (41_pwm_timebase.md). -/

namespace Sys2Proof.Machine

/-! ### Shared steps -/

/-- A module just constructed (41_pwm_timebase.md R140). -/
def PwmModule.construct (md : Mode) (r : DivResult) : PwmModule :=
  { PwmModule.reset with
    mode := md
    tbclk := BitVec.ofNat 32 r.achieved
    tbCoarse := BitVec.ofNat 3 r.ci
    tbFine := BitVec.ofNat 3 r.fi
    clkEn := true
    st := .constructed }

/-- `WRITE_TASK(m, n, f, d)` (41_pwm_timebase.md R147). -/
def PwmModule.writeTask (w : Params) (x : PwmModule) (n : BitVec 4) (f : Word) (d0 d1 : Half) : PwmModule :=
  let p := period x.mode x.tbclk.toNat f.toNat
  { x with
    tbprd := regValue w.ctrBits p
    cmp :=
      ⟨if 0 < n.toNat then regValue w.ctrBits (compare w.ctrBits x.mode p d0.toNat) else x.cmp.c0,
       if 1 < n.toNat then regValue w.ctrBits (compare w.ctrBits x.mode p d1.toNat) else x.cmp.c1⟩
    cmpahr :=
      if x.hrEn ∧ 0 < n.toNat then
        regValue w.hrBits (hrSteps w.ctrBits x.mode p d0.toNat x.hrScale.toNat)
      else x.cmpahr
    taskValid := true
    taskFreq := f
    taskN := n.setWidth 2
    taskDuty := ⟨if 0 < n.toNat then d0 else 0#16, if 1 < n.toNat then d1 else 0#16⟩ }

/-- The active registers take the shadow values (41_pwm_timebase.md R148, R152). -/
def PwmModule.shadowLoad (x : PwmModule) : PwmModule :=
  { x with tbprdA := x.tbprd, cmpA := x.cmp, cmpahrA := x.cmpahr }

/-- The shadow load of module `m` with its record (41_pwm_timebase.md R148, R152). -/
def State.shadowLoad (s : State) (m : ModuleIndex) : State :=
  (s.setPwm m (s.pwmAt m).shadowLoad).record (.shadowLoad m)

/-- The task check of PWM_START and PWM_SET_TASK on the argument words (41_pwm_timebase.md R145). -/
def State.taskAccepted (s : State) (x : PwmModule) (n : BitVec 4) : Bool :=
  x.isTask s.params n s.arg0 (duty0 s.arg1) (duty1 s.arg1)

/-- The module with the task of the argument words written (41_pwm_timebase.md R147). -/
def State.withTask (s : State) (x : PwmModule) (n : BitVec 4) : PwmModule :=
  x.writeTask s.params n s.arg0 (duty0 s.arg1) (duty1 s.arg1)

/-! ### Life cycle -/

/-- PWM_CONSTRUCT (41_pwm_timebase.md R140; mode 3 is `ILLEGAL` by 30_encoding.md R94). -/
def execPwmConstruct (m : ModuleIndex) (mode : BitVec 2) (s : State) : Result :=
  match Mode.ofBits mode with
  | none => finishIllegal (.pwmConstruct m mode) s
  | some md =>
    if s.moduleExists m ∧ (s.pwmAt m).st = .uninit ∧ s.drvReady then
      match pwmDivide s.params s.sysclk.toNat s.arg0.toNat with
      | none => finishUnusable (.pwmConstruct m mode) s
      | some r =>
        finishOk (.pwmConstruct m mode)
          ((s.setPwm m (PwmModule.construct md r)).setDivResult r)
    else finishUnusable (.pwmConstruct m mode) s

/-- PWM_RELEASE (41_pwm_timebase.md R141). -/
def execPwmRelease (m : ModuleIndex) (s : State) : Result :=
  onModule (.pwmRelease m) m s fun _ => updateModule (.pwmRelease m) m s PwmModule.reset

/-! ### Start, set task, stop -/

/-- PWM_START (41_pwm_timebase.md R148). -/
def execPwmStart (m : ModuleIndex) (n : BitVec 4) (s : State) : Result :=
  onModule (.pwmStart m n) m s fun x =>
    if s.taskAccepted x n then
      finishOk (.pwmStart m n)
        ((s.setPwm m { (s.withTask x n).shadowLoad with st := .running }).record (.shadowLoad m))
    else finishRejected (.pwmStart m n) s

/-- PWM_SET_TASK (41_pwm_timebase.md R149). -/
def execPwmSetTask (m : ModuleIndex) (n : BitVec 4) (s : State) : Result :=
  onModule (.pwmSetTask m n) m s fun x =>
    if s.taskAccepted x n then updateModule (.pwmSetTask m n) m s (s.withTask x n)
    else finishRejected (.pwmSetTask m n) s

/-- PWM_STOP (41_pwm_timebase.md R150). -/
def execPwmStop (m : ModuleIndex) (s : State) : Result :=
  onModule (.pwmStop m) m s fun x =>
    if x.st = .running then updateModule (.pwmStop m) m s { x with st := .stopped }
    else finishOk (.pwmStop m) s

/-! ### Getters -/

/-- PWM_GET_FREQ (41_pwm_timebase.md R155). -/
def execPwmGetFreq (m : ModuleIndex) (set : Bool) (s : State) : Result :=
  onModule (.pwmGetFreq m set) m s fun x =>
    if x.taskValid then
      if set then answer (.pwmGetFreq m set) s x.taskFreq
      else answerNat (.pwmGetFreq m set) s (freqReadback x.mode x.tbclk.toNat x.tbprd.toNat)
    else finishRejected (.pwmGetFreq m set) s

/-- PWM_GET_DUTY (41_pwm_timebase.md R156). -/
def execPwmGetDuty (m : ModuleIndex) (c : BitVec 4) (set : Bool) (s : State) : Result :=
  onModule (.pwmGetDuty m c set) m s fun x =>
    if c.toNat < s.params.pwmChannels ∧ x.taskValid ∧ c.toNat < x.taskN.toNat then
      if set then answer (.pwmGetDuty m c set) s ((x.taskDuty.channel c.toNat).setWidth 32)
      else answerNat (.pwmGetDuty m c set) s
        (dutyReadback x.mode x.tbprd.toNat (x.cmp.channel c.toNat).toNat)
    else finishRejected (.pwmGetDuty m c set) s

/-- PWM_GET_BOUNDS (41_pwm_timebase.md R157, R144). With a zero clock, which no run reaches by the default
tables, the rule's `t - 1` has no value (entry 9). -/
def execPwmGetBounds (m : ModuleIndex) (s : State) : Result :=
  onModule (.pwmGetBounds m) m s fun x =>
    finishOk (.pwmGetBounds m)
      ((s.setRes0Nat (some (minFrequency s.params.ctrBits x.mode x.tbclk.toNat))).setRes1Nat
        (if x.tbclk = 0#32 then none else some (maxFrequency x.tbclk.toNat)))

/-- PWM_GET_STATE (41_pwm_timebase.md R158): it answers for an unconstructed module too. -/
def execPwmGetState (m : ModuleIndex) (s : State) : Result :=
  if s.moduleExists m then
    finishOk (.pwmGetState m)
      ((s.setRes0 ((s.pwmAt m).st.bits.setWidth 32)).setRes1 (s.pwmAt m).tbclk)
  else finishUnusable (.pwmGetState m) s

/-- PWM_READ_REG (41_pwm_timebase.md R160). -/
def execPwmReadReg (m : ModuleIndex) (r : PwmReg) (s : State) : Result :=
  onModule (.pwmReadReg m r) m s fun x => answer (.pwmReadReg m r) s (x.reg r)

end Sys2Proof.Machine
end

