-- ==== Sys2Proof/Machine/Dispatch.lean ====
section
/-! DEFINITION. The meaning of every command, one arm per constructor (30_encoding.md R96). -/

namespace Sys2Proof.Machine

def exec (i : Instr) (s : State) : Host.Outcome State Fault Refusal :=
  match i with
  | .nop => Sys2Proof.Machine.execNop s
  | .drvInit => Sys2Proof.Machine.execDrvInit s
  | .clkdivCalc table => Sys2Proof.Machine.execClkdivCalc table s
  | .pwmConstruct m mode => Sys2Proof.Machine.execPwmConstruct m mode s
  | .pwmRelease m => Sys2Proof.Machine.execPwmRelease m s
  | .pwmStart m n => Sys2Proof.Machine.execPwmStart m n s
  | .pwmSetTask m n => Sys2Proof.Machine.execPwmSetTask m n s
  | .pwmStop m => Sys2Proof.Machine.execPwmStop m s
  | .pwmGetFreq m set => Sys2Proof.Machine.execPwmGetFreq m set s
  | .pwmGetDuty m c set => Sys2Proof.Machine.execPwmGetDuty m c set s
  | .pwmGetBounds m => Sys2Proof.Machine.execPwmGetBounds m s
  | .pwmGetState m => Sys2Proof.Machine.execPwmGetState m s
  | .pwmReadReg m r => Sys2Proof.Machine.execPwmReadReg m r s
  | .dbSetRise m => Sys2Proof.Machine.execDbSetRise m s
  | .dbSetFall m => Sys2Proof.Machine.execDbSetFall m s
  | .dbGetRise m set => Sys2Proof.Machine.execDbGetRise m set s
  | .dbGetFall m set => Sys2Proof.Machine.execDbGetFall m set s
  | .tglDisable m t => Sys2Proof.Machine.execTglDisable m t s
  | .tglEnable m t status => Sys2Proof.Machine.execTglEnable m t status s
  | .tglRead m t => Sys2Proof.Machine.execTglRead m t s
  | .chpSetFreq m => Sys2Proof.Machine.execChpSetFreq m s
  | .chpSetDuty m => Sys2Proof.Machine.execChpSetDuty m s
  | .chpSetPulse m => Sys2Proof.Machine.execChpSetPulse m s
  | .chpGetFreq m set => Sys2Proof.Machine.execChpGetFreq m set s
  | .chpGetDuty m set => Sys2Proof.Machine.execChpGetDuty m set s
  | .chpGetPulse m set => Sys2Proof.Machine.execChpGetPulse m set s
  | .syncSetEvent m e => Sys2Proof.Machine.execSyncSetEvent m e s
  | .syncGetEvent m => Sys2Proof.Machine.execSyncGetEvent m s
  | .syncIsSynchronizing m => Sys2Proof.Machine.execSyncIsSynchronizing m s
  | .syncSynchronize m => Sys2Proof.Machine.execSyncSynchronize m s
  | .phsSet m => Sys2Proof.Machine.execPhsSet m s
  | .phsGet m set => Sys2Proof.Machine.execPhsGet m set s
  | .phsSetDir m dir => Sys2Proof.Machine.execPhsSetDir m dir s
  | .phsGetDir m => Sys2Proof.Machine.execPhsGetDir m s
  | .hrEnable m => Sys2Proof.Machine.execHrEnable m s
  | .hrDisable m => Sys2Proof.Machine.execHrDisable m s
  | .hrIsEnabled m => Sys2Proof.Machine.execHrIsEnabled m s
  | .pwmGetResolution m => Sys2Proof.Machine.execPwmGetResolution m s
  | .etSetEvent m x e => Sys2Proof.Machine.execEtSetEvent m x e s
  | .etResetEvent m x => Sys2Proof.Machine.execEtResetEvent m x s
  | .etGetEvent m x => Sys2Proof.Machine.execEtGetEvent m x s
  | .adcConstruct => Sys2Proof.Machine.execAdcConstruct s
  | .adcRelease => Sys2Proof.Machine.execAdcRelease s
  | .adcGetClock => Sys2Proof.Machine.execAdcGetClock s
  | .adcRegisterTask => Sys2Proof.Machine.execAdcRegisterTask s
  | .adcSetTrigger m src => Sys2Proof.Machine.execAdcSetTrigger m src s
  | .adcTrigger => Sys2Proof.Machine.execAdcTrigger s
  | .adcGetFreeIndex => Sys2Proof.Machine.execAdcGetFreeIndex s
  | .adcGetFullIndex => Sys2Proof.Machine.execAdcGetFullIndex s
  | .adcSetFullIsFree => Sys2Proof.Machine.execAdcSetFullIsFree s
  | .adcIsFilled => Sys2Proof.Machine.execAdcIsFilled s
  | .adcReadSample => Sys2Proof.Machine.execAdcReadSample s
  | .adcGetStatus => Sys2Proof.Machine.execAdcGetStatus s
  | .adcClearStatus mask => Sys2Proof.Machine.execAdcClearStatus mask s

end Sys2Proof.Machine
end

