-- ==== Sys2Proof/Machine/Environment.lean ====
section
/-! DEFINITION. The environment's steps: counter events (45_event_trigger.md R246), the external sync input
(44_sync_phase_hr.md R223), conversion completions (46_adc_sequencer.md R270) and the capture engine
(47_ring_buffer.md R290). A step whose enabling condition fails does not exist: it answers a fault (entry 6). -/

namespace Sys2Proof.Machine

/-! ### Counter events -/

/-- The counter events at which a sync event fires the sync-out (44_sync_phase_hr.md R210, R224). -/
def syncFires : SyncEvent → CtrEvent → Bool
  | .input, _ => false
  | .period, e => e == .ctrPrd
  | .edge, e => e == .ctruCmpb || e == .ctrdCmpb
  | .disable, _ => false

/-- The SOC line `x` of a module fires at event `e` (45_event_trigger.md R246). -/
def PwmModule.socFires (p : PwmModule) (x : Soc) (e : CtrEvent) : Bool :=
  p.socEn.ofSoc x && p.socSel.ofSoc x == e.code

/-- One SOC line of a counter event (45_event_trigger.md R246, R247). -/
def State.socLine (s : State) (m : ModuleIndex) (x : Soc) (e : CtrEvent) : State :=
  if (s.pwmAt m).socFires x e then s.socPulse m x else s

/-- The shadow load of a counter event (45_event_trigger.md R246, 41_pwm_timebase.md R152). -/
def State.loadAtZero (s : State) (m : ModuleIndex) (e : CtrEvent) : State :=
  if e = .ctrZero then s.shadowLoad m else s

/-- The sync-out of a counter event (44_sync_phase_hr.md R224). -/
def State.syncByEvent (s : State) (m : ModuleIndex) (e : CtrEvent) : State :=
  if syncFires (s.pwmAt m).syncEvent e then s.syncPulse m else s

/-- The effect of `EV_CTR m, e`, in the order of 45_event_trigger.md R246: record, shadow load, SOCA, SOCB,
sync-out. -/
def State.counterEvent (s : State) (m : ModuleIndex) (e : CtrEvent) : State :=
  (((((s.record (.ctrEvent m e)).loadAtZero m e).socLine m .soca e).socLine m .socb e).syncByEvent m e)

/-- `EV_CTR m, e`, enabled exactly while module `m` is `Running` (45_event_trigger.md R246). -/
def evCtr (m : ModuleIndex) (e : CtrEvent) (s : State) : Result :=
  if s.moduleExists m ∧ (s.pwmAt m).st = .running then .next (s.counterEvent m e)
  else .fault .eventNotEnabled

/-- `EV_SYNCIN`, enabled at every state (44_sync_phase_hr.md R223). -/
def evSyncIn (s : State) : Result := .next s.syncIn

/-! ### Conversion -/

/-- Write conversion results to the result registers from register `k` on, `n` of which exist
(46_adc_sequencer.md R270, 10_state.md R43). -/
def writeResults (n : Nat) (r : Vector Half Config.resultSlots) (k : Nat) :
    List Half → Vector Half Config.resultSlots
  | [] => r
  | v :: vs => writeResults n (if k < n then r.setIfInBounds k v else r) (k + 1) vs

/-- A pass may complete (46_adc_sequencer.md R270). -/
def AdcState.converting (a : AdcState) : Bool :=
  decide (a.st = .constructed ∧ a.bound = true ∧ a.seqState = .converting)

/-- The values are `sampleNumber` draws of `ADC_RESULT_BITS` bits (46_adc_sequencer.md R270). -/
def State.drawsAdmitted (s : State) (v : List Half) : Bool :=
  v.length == s.adc.sampleNumber && v.all fun x => decide (x.toNat < 2 ^ s.params.adcResultBits)

/-- `EV_CONV v[0..sampleNumber-1]` (46_adc_sequencer.md R270). -/
def evConv (v : List Half) (s : State) : Result :=
  if s.adc.converting then
    if s.drawsAdmitted v then
      .next (({ s with
        adc := { s.adc with
          result := writeResults s.params.adcResults s.adc.result 0 v
          seqState := .complete
          intFlag := true } }).record (.convDone v))
    else .fault .drawNotAdmitted
  else .fault .eventNotEnabled

/-! ### The capture engine (47_ring_buffer.md R290) -/

/-- The sequencer's return to its initial state, on every path of the capture engine
(47_ring_buffer.md R290, 90_conflicts.md C4). -/
def State.resetSequencer (s : State) : State :=
  { s with adc := { s.adc with seqState := .idle, intFlag := false } }

/-- A new block would start on a full ring (47_ring_buffer.md R290). -/
def AdcState.overruns (a : AdcState) : Bool := a.seqLeft == 0#8 && a.isFilled

/-- The sequence is lost: `OVERFLOW_POLICY = DROP_NEWEST` (47_ring_buffer.md R290, R292). -/
def State.dropNewest (s : State) : State :=
  ({ s with adc := { s.adc with dropped := true } }).record (.drop .newest)

/-- Start a block if none is in progress; on a full ring the oldest block is overwritten
(47_ring_buffer.md R290, `OVERFLOW_POLICY = DROP_OLDEST`). -/
def State.beginBlock (s : State) : State :=
  if s.adc.seqLeft = 0#8 then
    if s.adc.isFilled then
      ({ s with adc := { s.adc with dropped := true, seqLeft := s.adc.nSeq } }).record (.drop .oldest)
    else { s with adc := { s.adc with seqLeft := s.adc.nSeq } }
  else s

/-- The sequence a capture writes, `s = nSeq - seqLeft` (47_ring_buffer.md R290). -/
def AdcState.captureSeq (a : AdcState) : BitVec 8 := a.nSeq - a.seqLeft

/-- The first word a capture writes, `ADDR(free, s, 0)` (47_ring_buffer.md R290, R281). -/
def AdcState.captureAddr (a : AdcState) : Nat :=
  a.sampleAddr a.free.toNat a.captureSeq.toNat 0

/-- The results a capture stores (47_ring_buffer.md R290). -/
def AdcState.captureWords (a : AdcState) : List Half := a.result.toList.take a.sampleNumber

/-- Store one sequence and count it (47_ring_buffer.md R290). -/
def State.storeSequence (s : State) : State :=
  let t := (s.sampleWrites s.adc.captureAddr s.adc.captureWords).record
    (.capture s.adc.free s.adc.captureSeq)
  { t with adc := { s.adc with seqLeft := s.adc.seqLeft - 1#8 } }

/-- Publish block `b` once its last sequence is stored (47_ring_buffer.md R290, R283). -/
def State.publishBlock (s : State) (b : BitVec 8) : State :=
  if s.adc.seqLeft = 0#8 then
    ({ s with adc := { s.adc.setFreeIsFull with blockDone := true } }).record (.blockDone b)
  else s

/-- The capture of one sequence of a bound task (47_ring_buffer.md R290). -/
def State.captureSequence (s : State) : Result :=
  if s.adc.overruns ∧ s.params.overflowPolicy = .dropNewest then .next s.dropNewest.resetSequencer
  else
    let t := s.beginBlock
    if t.adc.captureAddr + t.adc.captureWords.length ≤ t.params.adcBufWords then
      .next (t.storeSequence.publishBlock t.adc.free).resetSequencer
    else .fault .sampleAddress

/-- `EV_CAPTURE` (47_ring_buffer.md R290): with no bound task it only resets the sequencer
(90_conflicts.md C4). -/
def evCapture (s : State) : Result :=
  if s.adc.st = .constructed ∧ s.adc.intFlag then
    if s.adc.bound then s.captureSequence else .next s.resetSequencer
  else .fault .eventNotEnabled

end Sys2Proof.Machine
end

