-- ==== Sys2Proof/Machine/Window.lean ====
section
/-! DEFINITION. The register window (20_memory.md R70 to R73, R78): which accesses are admitted, what a read
returns, what a write does. A write to `CMD` runs a command and stands in Machine/Bus.lean. -/

namespace Sys2Proof.Machine

/-- The words of the window (20_memory.md R70). -/
inductive WindowReg where
  | cmd
  | arg0
  | arg1
  | arg2
  | arg3
  | res0
  | res1
  | status
  | id
  | reserved
deriving DecidableEq, Repr

/-- The word at an aligned offset (20_memory.md R70). -/
def windowRegAt (off : Nat) : WindowReg :=
  match off / 4 with
  | 0 => .cmd
  | 1 => .arg0
  | 2 => .arg1
  | 3 => .arg2
  | 4 => .arg3
  | 5 => .res0
  | 6 => .res1
  | 7 => .status
  | 8 => .id
  | _ => .reserved

/-- The window word an access reaches; `none` where the access is not admitted (20_memory.md R71): another
width, another alignment, or outside the 64 bytes. -/
def windowReg (p : Params) (addr bytes : Nat) : Option WindowReg :=
  if bytes = 4 ∧ p.blockBase ≤ addr ∧ addr < p.blockBase + 64 ∧ (addr - p.blockBase) % 4 = 0 then
    some (windowRegAt (addr - p.blockBase))
  else none

/-- The constant of the `ID` word (20_memory.md R72). -/
def idWord : Word := 0x50410001#32

/-- What a read of a window word returns (20_memory.md R72). -/
def State.windowRead (s : State) : WindowReg → Word
  | .cmd => 0#32
  | .arg0 => s.arg0
  | .arg1 => s.arg1
  | .arg2 => s.arg2
  | .arg3 => s.arg3
  | .res0 => s.res0
  | .res1 => s.res1
  | .status => s.statusWord
  | .id => idWord
  | .reserved => 0#32

/-- What a write of a window word other than `CMD` does (20_memory.md R73): the argument registers store it,
every other word ignores it. -/
def State.windowWrite (s : State) (r : WindowReg) (v : Word) : State :=
  match r with
  | .arg0 => { s with arg0 := v }
  | .arg1 => { s with arg1 := v }
  | .arg2 => { s with arg2 := v }
  | .arg3 => { s with arg3 := v }
  | .cmd => s
  | .res0 => s
  | .res1 => s
  | .status => s
  | .id => s
  | .reserved => s

/-- A host read (20_memory.md R71, R72): the block does not change; the model keeps the word the host got
(entry 7). -/
def hostRead (addr bytes : Nat) (s : State) : Result :=
  match windowReg s.params addr bytes with
  | none => .fault .accessNotAdmitted
  | some r => .next { s with busRead := some (s.windowRead r) }

end Sys2Proof.Machine
end

