-- ==== Sys2Proof/Machine/Bus.lean ====
section
/-! DEFINITION. What one input does: a host access to the window (20_memory.md R71 to R73), of which a `CMD`
write runs a command, or an environment step. -/

namespace Sys2Proof.Machine

/-- A command word written to `CMD` (20_memory.md R73, 30_encoding.md R95): a word that is no command finishes
`ILLEGAL` and changes nothing else. -/
def runCommand (w : Word) (s : State) : Result :=
  match decode w with
  | .ok i => exec i s
  | .error _ => .next (s.finish w .illegal)

/-- A host write (20_memory.md R71, R73). -/
def hostWrite (addr bytes : Nat) (v : Word) (s : State) : Result :=
  match windowReg s.params addr bytes with
  | none => .fault .accessNotAdmitted
  | some .cmd => runCommand v s
  | some r => .next (s.windowWrite r v)

/-- The effect of one input (10_state.md R20). -/
def runInput (i : Input) (s : State) : Result :=
  match i with
  | .hostWrite addr bytes v => hostWrite addr bytes v s
  | .hostRead addr bytes => hostRead addr bytes s
  | .evCtr m e => evCtr m e s
  | .evSyncIn => evSyncIn s
  | .evConv v => evConv v s
  | .evCapture => evCapture s

/-- The state without its next input. -/
def State.popInput (s : State) : State := { s with inputs := s.inputs.tail }

/-- The `CMD` write of a command word (30_encoding.md R90, 20_memory.md R73). -/
def State.cmdWrite (s : State) (w : Word) : Input := .hostWrite s.params.blockBase 4 w

/-- The bits of an opcode-table word, `nbits` of them, in a command word. -/
def tableWord (nbits w : Nat) : Word := BitVec.ofNat 32 (w % 2 ^ nbits)

end Sys2Proof.Machine
end

