-- ==== Sys2Proof/Machine/Step.lean ====
section
/-! DEFINITION. One step of the block (00_scope.md R5, 10_state.md R20). -/

namespace Sys2Proof.Machine

/-- One atomic step: the next input takes its effect on the state without it. With no input left no agent moves,
and the block keeps its state (entry 1). -/
def step (s : State) : Host.Outcome State Fault Refusal :=
  match s.inputs with
  | [] => .next s
  | i :: _ => runInput i s.popInput

/-- The state whose next step is a `CMD` write of the word (entry 2): the block fetches no instructions
(20_memory.md R84), so the command stands in front of the inputs still to come. -/
def State.withFetchWord (s : State) (nbits w : Nat) : State :=
  { s with inputs := s.cmdWrite (tableWord nbits w) :: s.inputs }

end Sys2Proof.Machine
end

