-- ==== Sys2Proof/Safety.lean ====
section
/-! DEFINITION. What counts as a legal state and a safe run, in the terms the statements use: the invariants the
spec gives its states (10_state.md R25, R42, R46, R53, R54; 41_pwm_timebase.md R155; 47_ring_buffer.md R281)
and the empty fault set (60_exceptions.md R318). -/

namespace Sys2Proof.Machine

/-! ### Modules -/

/-- What a valid task snapshot says of the registers (41_pwm_timebase.md R144 to R147, R155): the frequency is
inside the bounds, the duties are at most 100 %, and the shadow registers hold the task's period and compares. -/
abbrev PwmModule.TaskHeld (p : Params) (x : PwmModule) : Prop :=
  x.taskN.toNat ≤ p.pwmChannels ∧
  minFrequency p.ctrBits x.mode x.tbclk.toNat ≤ x.taskFreq.toNat ∧ x.taskFreq.toNat ≤ maxFrequency x.tbclk.toNat ∧
  x.taskDuty.c0.toNat ≤ 10000 ∧ x.taskDuty.c1.toNat ≤ 10000 ∧
  x.tbprd.toNat = period x.mode x.tbclk.toNat x.taskFreq.toNat ∧
  (0 < x.taskN.toNat → x.cmp.c0.toNat = compare p.ctrBits x.mode x.tbprd.toNat x.taskDuty.c0.toNat) ∧
  (1 < x.taskN.toNat → x.cmp.c1.toNat = compare p.ctrBits x.mode x.tbprd.toNat x.taskDuty.c1.toNat)

/-- Every register holds a value of its width (10_state.md R28, R30, R33). -/
abbrev PwmModule.WidthsHeld (p : Params) (x : PwmModule) : Prop :=
  x.tbprd.toNat < 2 ^ p.ctrBits ∧ x.tbprdA.toNat < 2 ^ p.ctrBits ∧
  x.cmp.c0.toNat < 2 ^ p.ctrBits ∧ x.cmp.c1.toNat < 2 ^ p.ctrBits ∧
  x.cmpA.c0.toNat < 2 ^ p.ctrBits ∧ x.cmpA.c1.toNat < 2 ^ p.ctrBits ∧
  x.cmpahr.toNat < 2 ^ p.hrBits ∧ x.cmpahrA.toNat < 2 ^ p.hrBits ∧
  x.dbred.toNat < 2 ^ p.dbBits ∧ x.dbfed.toNat < 2 ^ p.dbBits ∧ x.tbphs.toNat < 2 ^ p.phsBits

/-- The tick registers stand for the requested nanoseconds (42_deadband_toggle.md R172, R173;
44_sync_phase_hr.md R225). -/
abbrev PwmModule.DelaysHeld (p : Params) (x : PwmModule) : Prop :=
  x.dbred.toNat = nsToTicks x.dbRiseNs.toNat x.tbclk.toNat p.dbBits ∧
  x.dbfed.toNat = nsToTicks x.dbFallNs.toNat x.tbclk.toNat p.dbBits ∧
  x.tbphs.toNat = nsToTicks x.phaseNs.toNat x.tbclk.toNat p.phsBits

/-- A legal module: reset while `Uninit` (10_state.md R54), its clock enabled exactly while it is not (R25),
chopper duty code 7 never written (R32), high resolution with a scale of at least 1 (44_sync_phase_hr.md R230)
and a cleared extension while off (R231), an enabled SOC line with a supported event (45_event_trigger.md R242),
`Running` only with a task, the task it holds, registers within their widths, and the delays they stand for. -/
abbrev PwmModule.Legal (p : Params) (x : PwmModule) : Prop :=
  (x.st = .uninit → x = PwmModule.reset) ∧
  (x.clkEn = true ↔ x.st ≠ .uninit) ∧
  x.chpDuty ≠ 7#3 ∧
  (x.hrEn = true → 1 ≤ x.hrScale.toNat) ∧
  (x.hrEn = false → x.cmpahr = 0#32) ∧
  (x.socEn.c0 = true → (CtrEvent.ofCode x.socSel.c0).isSome) ∧
  (x.socEn.c1 = true → (CtrEvent.ofCode x.socSel.c1).isSome) ∧
  (x.st = .running → x.taskValid = true) ∧
  (x.taskValid = true → x.TaskHeld p) ∧
  x.WidthsHeld p ∧ x.DelaysHeld p

/-- Every module is legal, and a slot at or above `PWM_MODULES` is as after reset (entry 12). -/
abbrev State.ModulesLegal (s : State) : Prop :=
  ∀ m : ModuleIndex,
    (s.pwmAt m).Legal s.params ∧ (s.params.pwmModules ≤ m.toNat → s.pwmAt m = PwmModule.reset)

/-! ### ADC and ring -/

/-- A legal ring of a bound task (10_state.md R45, R46, R47, R53; 46_adc_sequencer.md R259; under `DROP_NEWEST`
no block is in progress on a full ring, 47_ring_buffer.md R292). -/
abbrev AdcState.RingLegal (p : Params) (a : AdcState) : Prop :=
  1 ≤ a.nSeq.toNat ∧ 1 ≤ a.nChan.toNat ∧ a.nChan.toNat ≤ p.adcMaxChannels ∧
  a.nRes.toNat = p.slotResults ∧
  a.nBlocks.toNat * a.blockWords ≤ p.adcBufWords ∧
  a.maxconv.toNat + 1 = a.nChan.toNat ∧
  a.free.toNat < a.nBlocks.toNat ∧ a.full.toNat < a.nBlocks.toNat ∧
  (a.isFilled = true → a.free = a.full) ∧
  a.seqLeft.toNat ≤ a.nSeq.toNat ∧
  (p.overflowPolicy = .dropNewest → a.isFilled = true → a.seqLeft = 0#8)

/-- A legal ADC: reset while `Uninit` (46_adc_sequencer.md R257), `intFlag` exactly while `Complete`
(10_state.md R42), a pass only with a bound task (46_adc_sequencer.md R266, R268), and a legal ring. -/
abbrev AdcState.Legal (p : Params) (a : AdcState) : Prop :=
  (a.st = .uninit → a = AdcState.reset) ∧
  (a.intFlag = true ↔ a.seqState = .complete) ∧
  (a.seqState ≠ .idle → a.bound = true) ∧
  (a.bound = true → a.RingLegal p)

/-! ### Sample RAM -/

/-- The sample RAM is canonical: addresses rise strictly, and so do the marks. -/
abbrev State.MemoryCanonical (s : State) : Prop :=
  Memory.wf s.sram = true ∧ s.written.Pairwise (· < ·)

/-- A legal sample RAM: canonical, inside `ADC_BUF_WORDS` words, and every marked word has a value
(10_state.md R49, 20_memory.md R74). -/
abbrev State.MemoryLegal (s : State) : Prop :=
  s.MemoryCanonical ∧
  (∀ c ∈ s.sram, c.1 < 2 * s.params.adcBufWords) ∧
  (∀ i ∈ s.written, i < s.params.adcBufWords ∧ (Memory.readHalf s.sram i).isSome)

/-! ### The whole state -/

/-- The clock table: `drvReady` exactly when a rate is recorded (40_clock_divider.md R122), and nothing is
constructed without it (10_state.md R23). -/
abbrev State.ClockLegal (s : State) : Prop :=
  (s.drvReady = true ↔ s.sysclk ≠ 0#32) ∧
  (∀ m : ModuleIndex, (s.pwmAt m).st ≠ .uninit →
    s.drvReady = true ∧ (s.pwmAt m).tbclk.toNat ≤ s.sysclk.toNat) ∧
  (s.adc.st ≠ .uninit → s.drvReady = true ∧ s.adc.clock.toNat ≤ s.sysclk.toNat)

/-- A legal state: every invariant the spec gives, under parameters it admits. -/
abbrev State.Legal (s : State) : Prop :=
  s.params.Admitted ∧ s.ClockLegal ∧ s.ModulesLegal ∧ s.adc.Legal s.params ∧ s.MemoryLegal

/-- A safe state: the fault set is empty (60_exceptions.md R318). -/
abbrev State.Safe (s : State) : Prop := s.faults = []

end Sys2Proof.Machine
end

