-- ==== Sys2Proof/Certificates/Slice0/Obligations.lean ====
section
/-! DEFINITION. The statements for the provers, and the few words they are written in. A statement of a
command's result is an equation for the whole next state: what it does not name is unchanged. -/

namespace Sys2Proof.Statements

open Sys2Proof.Machine

/-! ### Words of the statements -/

/-- The command finishes `OK`, and the state it leaves is `u` with the status and the record of its end. -/
abbrev Completes (i : Instr) (s u : State) : Prop := exec i s = .next (u.finish (encode i) .ok)

/-- The command finishes with a status other than `OK`, and changes nothing else. -/
abbrev Ends (i : Instr) (c : Code) (s : State) : Prop := exec i s = .next (s.finish (encode i) c)

/-- The next input of the state is `x`, and `rest` comes after it. -/
abbrev NextInput (s : State) (x : Input) (rest : List Input) : Prop := s.inputs = x :: rest

/-- The opcodes of 30_encoding.md R96. -/
def opcodes : List (BitVec 8) :=
  [0x00, 0x01, 0x02] ++
  [0x10, 0x11, 0x12, 0x13, 0x14, 0x15, 0x16, 0x17, 0x18, 0x19] ++
  [0x20, 0x21, 0x22, 0x23, 0x28, 0x29, 0x2A] ++
  [0x30, 0x31, 0x32, 0x33, 0x34, 0x35] ++
  [0x40, 0x41, 0x42, 0x43, 0x44, 0x45, 0x46, 0x47, 0x48, 0x49, 0x4A, 0x4B] ++
  [0x50, 0x51, 0x52] ++
  [0x60, 0x61, 0x62, 0x63, 0x64, 0x65, 0x66, 0x67, 0x68, 0x69, 0x6A, 0x6B, 0x6C]

/-- The module of a PWM command that first checks that it is usable (41_pwm_timebase.md R142: every PWM command
but PWM_CONSTRUCT and PWM_GET_STATE). -/
def checkedModule : Instr → Option ModuleIndex
  | .pwmRelease m => some m
  | .pwmStart m _ => some m
  | .pwmSetTask m _ => some m
  | .pwmStop m => some m
  | .pwmGetFreq m _ => some m
  | .pwmGetDuty m _ _ => some m
  | .pwmGetBounds m => some m
  | .pwmReadReg m _ => some m
  | .dbSetRise m => some m
  | .dbSetFall m => some m
  | .dbGetRise m _ => some m
  | .dbGetFall m _ => some m
  | .tglDisable m _ => some m
  | .tglEnable m _ _ => some m
  | .tglRead m _ => some m
  | .chpSetFreq m => some m
  | .chpSetDuty m => some m
  | .chpSetPulse m => some m
  | .chpGetFreq m _ => some m
  | .chpGetDuty m _ => some m
  | .chpGetPulse m _ => some m
  | .syncSetEvent m _ => some m
  | .syncGetEvent m => some m
  | .syncIsSynchronizing m => some m
  | .syncSynchronize m => some m
  | .phsSet m => some m
  | .phsGet m _ => some m
  | .phsSetDir m _ => some m
  | .phsGetDir m => some m
  | .hrEnable m => some m
  | .hrDisable m => some m
  | .hrIsEnabled m => some m
  | .pwmGetResolution m => some m
  | .etSetEvent m _ _ => some m
  | .etResetEvent m _ => some m
  | .etGetEvent m _ => some m
  | .nop | .drvInit | .clkdivCalc _ | .pwmConstruct _ _ | .pwmGetState _ | .adcConstruct | .adcRelease
  | .adcGetClock | .adcRegisterTask | .adcSetTrigger _ _ | .adcTrigger | .adcGetFreeIndex | .adcGetFullIndex
  | .adcSetFullIsFree | .adcIsFilled | .adcReadSample | .adcGetStatus | .adcClearStatus _ => none

/-- The ADC commands that first check that the ADC is usable (46_adc_sequencer.md R255). -/
def checksAdc (i : Instr) : Prop :=
  i ∈ [.adcRelease, .adcGetClock, .adcRegisterTask, .adcTrigger, .adcGetFreeIndex, .adcGetFullIndex,
    .adcSetFullIsFree, .adcIsFilled, .adcReadSample, .adcGetStatus] ∨
  (∃ mask, i = .adcClearStatus mask) ∨ (∃ m src, src ≠ 3#2 ∧ i = .adcSetTrigger m src)

/-- The command or counter event of an input names module `m`, so that the input may change the module. -/
def actsOn (m : ModuleIndex) : Input → Prop
  | .hostWrite _ _ w =>
    ∃ i, decode w = .ok i ∧ (checkedModule i = some m ∨ ∃ mode, i = .pwmConstruct m mode)
  | .evCtr k _ => k = m
  | .hostRead _ _ => False
  | .evSyncIn => False
  | .evConv _ => False
  | .evCapture => False

/-- The input may load the active registers of module `m`: `CTR_ZERO`, PWM_START, or the reset of the module by
PWM_CONSTRUCT and PWM_RELEASE (41_pwm_timebase.md R152, R140, R141). -/
def loadsActive (m : ModuleIndex) : Input → Prop
  | .hostWrite _ _ w =>
    ∃ i, decode w = .ok i ∧
      ((∃ n, i = .pwmStart m n) ∨ (∃ mode, i = .pwmConstruct m mode) ∨ i = .pwmRelease m)
  | .evCtr k e => k = m ∧ e = .ctrZero
  | .hostRead _ _ => False
  | .evSyncIn => False
  | .evConv _ => False
  | .evCapture => False

/-- The active registers of a module. -/
abbrev activeRegisters (x : PwmModule) := (x.tbprdA, x.cmpA, x.cmpahrA)

/-- The task snapshot of a module (10_state.md R27). -/
abbrev snapshot (x : PwmModule) := (x.taskValid, x.taskFreq, x.taskN, x.taskDuty)

/-- Every field of the module has its value of the reset table (70_reset_and_hazards.md R330, 10_state.md R24 to
R36). -/
def ModuleAtReset (x : PwmModule) : Prop :=
  x.st = .uninit ∧ x.clkEn = false ∧ x.mode = .up ∧ x.tbclk = 0 ∧ x.tbCoarse = 0 ∧ x.tbFine = 0 ∧
  x.taskValid = false ∧ x.taskFreq = 0 ∧ x.taskN = 0 ∧ x.taskDuty.c0 = 0 ∧ x.taskDuty.c1 = 0 ∧
  x.tbprd = 0 ∧ x.tbprdA = 0 ∧ x.cmp.c0 = 0 ∧ x.cmp.c1 = 0 ∧ x.cmpA.c0 = 0 ∧ x.cmpA.c1 = 0 ∧
  x.cmpahr = 0 ∧ x.cmpahrA = 0 ∧ x.hrEn = false ∧ x.hrScale = 0 ∧
  x.dbRiseNs = 0 ∧ x.dbFallNs = 0 ∧ x.dbred = 0 ∧ x.dbfed = 0 ∧ x.dbctl = 0 ∧
  x.chpFreqReq = 0 ∧ x.chpDutyReq = 0 ∧ x.chpPulseReq = 0 ∧
  x.chpEn = false ∧ x.oshtwth = 0 ∧ x.chpFreq = 0 ∧ x.chpDuty = 0 ∧
  x.syncEvent = .disable ∧ x.phaseNs = 0 ∧ x.tbphs = 0 ∧ x.phsDir = false ∧ x.phsEn = false ∧
  x.socSel.c0 = 0 ∧ x.socSel.c1 = 0 ∧ x.socEn.c0 = false ∧ x.socEn.c1 = false ∧
  x.tbctl = 0x0033 ∧ x.etsel = 0 ∧ x.hrcnfg = 0

/-- Every field of the ADC has its value of the reset table (70_reset_and_hazards.md R330, 10_state.md R40 to
R48). -/
def AdcAtReset (a : AdcState) : Prop :=
  a.st = .uninit ∧ a.clock = 0 ∧ a.coarse = 0 ∧ a.fine = 0 ∧ a.trigSrc = .software ∧ a.trigMod = 0 ∧
  a.seqState = .idle ∧ a.intFlag = false ∧
  (∀ (k : Nat) (h : k < 16), a.result[k] = 0) ∧ (∀ (k : Nat) (h : k < 8), a.chsel[k] = 0) ∧ a.maxconv = 0 ∧
  a.bound = false ∧ a.nBlocks = 0 ∧ a.nSeq = 0 ∧ a.nChan = 0 ∧ a.nRes = 0 ∧
  a.free = 0 ∧ a.full = 0 ∧ a.isFilled = false ∧ a.seqLeft = 0 ∧
  a.blockDone = false ∧ a.dropped = false ∧ a.socOverrun = false

/-- The default column of 00_scope.md R6; `BLOCK_BASE` has none. -/
def DefaultColumn (p : Params) : Prop :=
  p.pwmModules = 6 ∧ p.pwmChannels = 2 ∧ p.ctrBits = 16 ∧ p.dbBits = 10 ∧ p.phsBits = 16 ∧ p.hrBits = 8 ∧
  p.pwmCoarse = [1, 2, 4, 8, 16, 32, 64, 128] ∧ p.pwmFine = [1, 2, 4, 6, 8, 10, 12, 14] ∧
  p.adcCoarse = [1, 2, 4, 6, 8, 10, 12, 14] ∧
  p.adcFine = [1, 2, 4, 6, 8, 10, 12, 14, 16, 18, 20, 22, 24, 26, 28, 30] ∧
  p.chpPrescale = 8 ∧ p.chpDutyBounds = [1850, 3125, 4375, 5625, 6875, 8125] ∧
  p.adcMaxChannels = 8 ∧ p.adcResults = 16 ∧ p.adcSimultaneous = true ∧ p.adcResultBits = 12 ∧
  p.adcBufWords = 4096 ∧ p.overflowPolicy = .dropOldest ∧ p.emptyReset = true

/-- What a sync input on module `k` records (44_sync_phase_hr.md R222): nothing while it is `Uninit`; a load while
it is `Running` with its phase enabled; and the pulse it passes on while its event is `INPUT`. -/
def syncInputRecords (s : State) (k : ModuleIndex) : List Event :=
  if (s.pwmAt k).st = .uninit then []
  else
    (if (s.pwmAt k).st = .running ∧ (s.pwmAt k).phsEn = true then
      [.syncLoad k (s.pwmAt k).tbphs (s.pwmAt k).phsDir] else []) ++
    (if (s.pwmAt k).syncEvent = .input then s.syncPulseEvents k else [])

/-- What a read of window word `k` returns (20_memory.md R70, R72). -/
def windowValue (s : State) (k : Nat) : Word :=
  if k = 1 then s.arg0 else if k = 2 then s.arg1 else if k = 3 then s.arg2 else if k = 4 then s.arg3
  else if k = 5 then s.res0 else if k = 6 then s.res1 else if k = 7 then s.statusWord
  else if k = 8 then 0x50410001#32 else 0#32

/-- The state with its history behind an older one. -/
def withOlderHistory (h : List Event) (s : State) : State := { s with history := h ++ s.history }

/-- An outcome with its next state changed. -/
def mapNext (f : State → State) : Result → Result
  | .next t => .next (f t)
  | .fault r => .fault r
  | .refused r => .refused r

/-- The record is the end of a command. -/
def isCmd : Event → Bool
  | .cmd _ _ _ _ _ _ => true
  | .shadowLoad _ | .ctrEvent _ _ | .soc _ _ | .syncOut _ | .syncLoad _ _ _ | .convStart _ | .convDone _
  | .capture _ _ | .blockDone _ | .drop _ => false

/-- The sequences left of the block a capture writes into: all of them when it starts one
(47_ring_buffer.md R290). -/
def leftBefore (a : AdcState) : Nat := if a.seqLeft = 0#8 then a.nSeq.toNat else a.seqLeft.toNat

/-- The capture engine may run and stores the sequence: a bound task, and under `DROP_NEWEST` no new block on a
full ring (47_ring_buffer.md R290). -/
abbrev Captures (s : State) : Prop :=
  s.adc.st = .constructed ∧ s.adc.intFlag = true ∧ s.adc.bound = true ∧
  ¬(s.adc.seqLeft = 0#8 ∧ s.adc.isFilled = true ∧ s.params.overflowPolicy = .dropNewest)

end Sys2Proof.Statements

open Sys2Proof Sys2Proof.Machine Sys2Proof.Statements

/-! ### Encoding -/

/-- Every well-formed command decodes from its own word (30_encoding.md R90 to R96). -/
def Obligations.EncodeThenDecode : Prop :=
  ∀ i : Instr, i.WellFormed → decode (encode i) = .ok i

/-- A word that decodes is the word of its command: no two words mean the same, and no bit of a command word is
ignored (30_encoding.md R95, R99). -/
def Obligations.DecodeThenEncode : Prop :=
  ∀ (w : Word) (i : Instr), decode w = .ok i → encode i = w ∧ i.WellFormed

/-- Words the spec writes out decode to the commands it names (95_test_vectors.md sections 2 and 3). -/
def Obligations.SpecWordsDecode : Prop :=
  decode 0x12020000 = .ok (.pwmStart 0 2) ∧
  decode 0x02010000 = .ok (.clkdivCalc .adc) ∧
  decode 0x29170001 = .ok (.tglEnable 1 .phaseEnable true) ∧
  decode 0x30000000 = .ok (.chpSetFreq 0) ∧
  decode 0x46100001 = .ok (.phsSetDir 1 true) ∧
  decode 0x191D0000 = .ok (.pwmReadReg 1 .tbctl) ∧
  decode 0x50010002 = .ok (.etSetEvent 0 .socb 2) ∧
  decode 0x64300000 = .ok (.adcSetTrigger 3 0) ∧
  decode 0x6C000007 = .ok (.adcClearStatus 7) ∧
  decode 0x28080000 = .error .mustBeZero ∧
  decode 0x7F000000 = .error .reservedOpcode ∧
  decode 0x64000003 = .error .fieldValue

/-- A reserved opcode (30_encoding.md R98), a set must-be-zero bit (R99), counting mode 3 and trigger source 3
(R94) finish `ILLEGAL` and change nothing else. -/
def Obligations.IllegalWordsChangeNothing : Prop :=
  (∀ (w : Word) (s : State), opField w ∉ opcodes → runCommand w s = .next (s.finish w .illegal)) ∧
  (∀ (w : Word) (s : State) (r : CommandRow), r ∈ commandRows → r.opcode = opField w →
    w &&& r.mask ≠ commandWord r.opcode 0 0 0 → runCommand w s = .next (s.finish w .illegal)) ∧
  (∀ (m : ModuleIndex) (s : State),
    runCommand (commandWord 0x10 m 0 3) s = .next (s.finish (commandWord 0x10 m 0 3) .illegal) ∧
    runCommand (commandWord 0x64 m 0 3) s = .next (s.finish (commandWord 0x64 m 0 3) .illegal))

/-! ### Steps and the window -/

/-- A `CMD` write runs the written word on the state without that input, and nothing is added around it: a word
that decodes runs its command, and one that does not finishes `ILLEGAL` (20_memory.md R73, R77; 30_encoding.md
R95). THE MODEL'S CHOICE: the input list (entry 1), and `withFetchWord`, which stands for the host issuing one
command word (entry 2). -/
def Obligations.StepRunsDecodedCommand : Prop :=
  (∀ (s : State) (w : Word) (rest : List Input), NextInput s (.hostWrite s.params.blockBase 4 w) rest →
    step s = runCommand w { s with inputs := rest } ∧
    (∀ i, decode w = .ok i → step s = exec i { s with inputs := rest }) ∧
    (∀ e, decode w = .error e → step s = .next ({ s with inputs := rest }.finish w .illegal))) ∧
  (∀ (s : State) (nbits w : Nat),
    (∀ i, decodeTableWord nbits w = some i → step (s.withFetchWord nbits w) = exec i s) ∧
    (decodeTableWord nbits w = none →
      step (s.withFetchWord nbits w) = .next (s.finish (BitVec.ofNat 32 (w % 2 ^ nbits)) .illegal)))

/-- `finish(code)` writes the status code, the opcode field of the command word, and one `Cmd` record
(60_exceptions.md R310, 10_state.md R22); the `STATUS` word shows the two fields and no other bit, the codes being
`OK` 0, `REJECTED` 1, `UNUSABLE` 2, `ILLEGAL` 3 (00_scope.md R11). -/
def Obligations.FinishReportsStatus : Prop :=
  ∀ (s : State) (w : Word) (c : Code),
    let number := match c with
      | .ok => 0
      | .rejected => 1
      | .unusable => 2
      | .illegal => 3
    s.finish w c =
      { s with
        statusCode := c
        statusOp := w.extractLsb' 24 8
        history := s.history ++ [.cmd w s.arg0 s.arg1 s.arg2 s.arg3 c] } ∧
    (s.finish w c).statusWord.toNat = number + 256 * (w.extractLsb' 24 8).toNat

/-- A read of an aligned window word returns the register there and changes nothing of the block
(20_memory.md R72); a write of an argument register stores the word, and a write of a read-only or reserved word
is ignored (20_memory.md R73, R78). THE MODEL'S CHOICE: the word a read returned stands in `busRead` (entry 7), and
the accesses come from the input list (entry 1). -/
def Obligations.WindowAccessResults : Prop :=
  ∀ (s : State) (k : Nat) (v : Word) (rest : List Input), k < 16 →
    (NextInput s (.hostRead (s.params.blockBase + 4 * k) 4) rest →
      step s = .next { s with inputs := rest, busRead := some (windowValue s k) }) ∧
    (1 ≤ k → NextInput s (.hostWrite (s.params.blockBase + 4 * k) 4 v) rest →
      step s = .next
        { s with
          inputs := rest
          arg0 := if k = 1 then v else s.arg0
          arg1 := if k = 2 then v else s.arg1
          arg2 := if k = 3 then v else s.arg2
          arg3 := if k = 4 then v else s.arg3 })

/-- The window admits only 32-bit accesses at multiples of 4 inside its 64 bytes; any other access has no next
state (20_memory.md R71). -/
def Obligations.UnadmittedAccessIsStuck : Prop :=
  ∀ (s : State) (addr bytes : Nat) (v : Word) (rest : List Input),
    ¬(bytes = 4 ∧ ∃ k, k < 16 ∧ addr = s.params.blockBase + 4 * k) →
    (NextInput s (.hostWrite addr bytes v) rest → step s = .fault .accessNotAdmitted) ∧
    (NextInput s (.hostRead addr bytes) rest → step s = .fault .accessNotAdmitted)

/-! ### Rules over all commands -/

/-- Every command that completes ends with exactly one `finish` of its own word (60_exceptions.md R310): the
opcode field, the code, and one `Cmd` record at the end; it never writes the argument registers. -/
def Obligations.CommandEndsInOneFinish : Prop :=
  ∀ (i : Instr) (s t : State), exec i s = .next t →
    t.statusOp = opField (encode i) ∧
    t.arg0 = s.arg0 ∧ t.arg1 = s.arg1 ∧ t.arg2 = s.arg2 ∧ t.arg3 = s.arg3 ∧
    ∃ es : List Event, (∀ e ∈ es, isCmd e = false) ∧
      t.history = s.history ++ es ++
        [.cmd (encode i) s.arg0 s.arg1 s.arg2 s.arg3 t.statusCode]

/-- A command that does not finish `OK` leaves everything but `STATUS` and the history as it was
(60_exceptions.md R316). -/
def Obligations.FailedCommandChangesNothing : Prop :=
  ∀ (i : Instr) (s t : State), exec i s = .next t → t.statusCode ≠ .ok →
    t = s.finish (encode i) t.statusCode

/-- In a legal state every command has a next state (60_exceptions.md R310): no command faults or is refused. -/
def Obligations.CommandsCompleteInLegalStates : Prop :=
  ∀ (i : Instr) (s : State), s.Legal → ∃ t, exec i s = .next t

/-- A PWM command on a module that is not usable, and an ADC command on an ADC that is not, finish `UNUSABLE`
and change nothing else (41_pwm_timebase.md R142, 46_adc_sequencer.md R255). -/
def Obligations.UnusableObjectIsReported : Prop :=
  (∀ (i : Instr) (s : State) (m : ModuleIndex), checkedModule i = some m →
    ¬(m.toNat < s.params.pwmModules ∧ (s.pwmAt m).st ≠ .uninit) → Ends i .unusable s) ∧
  (∀ (i : Instr) (s : State), checksAdc i → s.adc.st ≠ .constructed → Ends i .unusable s)

/-! ### Invariants -/

/-- Power-on reset, for every admitted choice of parameters, gives every value of the reset table
(70_reset_and_hazards.md R330) and a legal state, and enables no step of the environment that changes anything
(R331). The parameters of the reset state itself are the default column (00_scope.md R6). THE MODEL'S CHOICE: a step
that is not enabled is the fault eventNotEnabled (entry 6), `EV_SYNCIN` is enabled (entry 13), and the sample RAM,
whose content is unspecified, lists nothing (entry 10). -/
def Obligations.ResetIsLegalAndQuiet : Prop :=
  State.reset = State.resetWith Params.default ∧ Params.default.Admitted ∧ DefaultColumn Params.default ∧
  ModuleAtReset PwmModule.reset ∧ AdcAtReset AdcState.reset ∧
  ∀ p : Params, p.Admitted →
    let r := State.resetWith p
    r.Legal ∧ r.params = p ∧
    r.arg0 = 0 ∧ r.arg1 = 0 ∧ r.arg2 = 0 ∧ r.arg3 = 0 ∧ r.res0 = 0 ∧ r.res1 = 0 ∧
    r.statusCode = .ok ∧ r.statusOp = 0 ∧ r.statusWord = 0 ∧ r.drvReady = false ∧ r.sysclk = 0 ∧
    (∀ m : ModuleIndex, r.pwmAt m = PwmModule.reset) ∧ r.adc = AdcState.reset ∧
    (∀ i, Memory.readHalf r.sram i = none) ∧ r.written = [] ∧ r.history = [] ∧ r.faults = [] ∧
    (∀ (m : ModuleIndex) (e : CtrEvent), runInput (.evCtr m e) r = .fault .eventNotEnabled) ∧
    (∀ v, runInput (.evConv v) r = .fault .eventNotEnabled) ∧
    runInput .evCapture r = .fault .eventNotEnabled ∧
    runInput .evSyncIn r = .next r

/-- Every step keeps the sample RAM and its marks canonical, from every state in which they are (the model's
memory form, entry 10). -/
def Obligations.StepKeepsMemoryCanonical : Prop :=
  ∀ s t : State, s.MemoryCanonical → step s = .next t → t.MemoryCanonical

/-- Every step keeps, together, the invariants the spec gives its states (10_state.md R25, R28, R42, R46, R53, R54;
42_deadband_toggle.md R172; 44_sync_phase_hr.md R225, R231; 46_adc_sequencer.md R259) and the model's own: the
parameters it admits and registers held in words (entry 3), the canonical sample RAM (entry 10), the empty slots above
`PWM_MODULES` (entry 12). -/
def Obligations.StepKeepsLegal : Prop :=
  ∀ s t : State, s.Legal → step s = .next t → t.Legal

/-- No step takes a record from the history or a reason from the fault set (10_state.md R50, R51); once recorded, the
system clock never changes (40_clock_divider.md R122). No step changes a parameter: they are the model's arguments
(00_scope.md R6), which THE MODEL'S CHOICE puts in State (entry 3). -/
def Obligations.HistoryFaultsAndClockAreKept : Prop :=
  ∀ s t : State, step s = .next t →
    s.history <+: t.history ∧ s.faults ⊆ t.faults ∧ t.params = s.params ∧
    (s.drvReady = true → t.drvReady = true ∧ t.sysclk = s.sysclk)

/-- The history never decides a step (10_state.md R50): with an older history in front, every step has the same
outcome, with that history in front. -/
def Obligations.HistoryNeverDecidesAStep : Prop :=
  ∀ (h : List Event) (s : State),
    step (withOlderHistory h s) = mapNext (withOlderHistory h) (step s)

/-- No agent but the host writes the command window: counter events, sync inputs, conversions and captures leave
the arguments, the results, `STATUS` and the clock table alone (60_exceptions.md R310, 10_state.md R21). -/
def Obligations.EnvironmentLeavesTheWindow : Prop :=
  ∀ (s t : State) (x : Input) (rest : List Input), NextInput s x rest →
    (∀ addr bytes v, x ≠ .hostWrite addr bytes v) → step s = .next t →
    t.arg0 = s.arg0 ∧ t.arg1 = s.arg1 ∧ t.arg2 = s.arg2 ∧ t.arg3 = s.arg3 ∧
    t.res0 = s.res0 ∧ t.res1 = s.res1 ∧ t.statusWord = s.statusWord ∧
    t.drvReady = s.drvReady ∧ t.sysclk = s.sysclk

/-- A module changes only by a command that names it (41_pwm_timebase.md R140 to R150; 42_deadband_toggle.md R172,
R173, R178, R179; 43_chopper.md R192, R194, R196; 44_sync_phase_hr.md R211, R225, R227, R230, R231;
45_event_trigger.md R242, R243) or by its own counter event (R246, 41_pwm_timebase.md R152). -/
def Obligations.ModulesAreIsolated : Prop :=
  ∀ (s t : State) (m : ModuleIndex), step s = .next t → t.pwmAt m ≠ s.pwmAt m →
    ∃ x rest, NextInput s x rest ∧ actsOn m x

/-- The active registers load only at `CTR_ZERO` and by PWM_START, and are cleared only with their module
(41_pwm_timebase.md R152, R140, R141). -/
def Obligations.ActiveRegistersLoadOnlyAtZeroOrStart : Prop :=
  ∀ (s t : State) (m : ModuleIndex), step s = .next t →
    activeRegisters (t.pwmAt m) ≠ activeRegisters (s.pwmAt m) →
    ∃ x rest, NextInput s x rest ∧ loadsActive m x

/-! ### The formulas -/

/-- The formulas of 00_scope.md R9, 41_pwm_timebase.md R143, R144, R146, 42_deadband_toggle.md R170, R171,
43_chopper.md R190, R195 and 44_sync_phase_hr.md R233, written out over natural numbers, those with a 16-bit
literal at `CTR_BITS` = 16. -/
def Obligations.FormulasAreTheRules : Prop :=
  (∀ t f, period .up t f = (t + f - 1) / f - 1 ∧ period .down t f = (t + f - 1) / f - 1 ∧
    period .updown t f = (t + f - 1) / f / 2) ∧
  (∀ t, minFrequency 16 .up t = max 1 ((t + 65535) / 65536) ∧
    minFrequency 16 .down t = max 1 ((t + 65535) / 65536) ∧
    minFrequency 16 .updown t = max 1 ((t + 131070) / 131071) ∧ maxFrequency t = t - 1) ∧
  (∀ p d, compare 16 .up p d = p * (10000 - d) / 10000 ∧ compare 16 .down p d = min ((p + 1) * d / 10000) 65535 ∧
    compare 16 .updown p d = (2 * (p * (10000 - d)) + 10000) / 20000) ∧
  (∀ p d s, hrSteps 16 .up p d s = p * (10000 - d) % 10000 * s / 10000 ∧
    ((p + 1) * d < 65536 * 10000 → hrSteps 16 .down p d s = (p + 1) * d % 10000 * s / 10000) ∧
    (65536 * 10000 ≤ (p + 1) * d → hrSteps 16 .down p d s = 0) ∧
    hrSteps 16 .updown p d s = (2 * p * (10000 - d) + 10000) % 20000 * s / 20000) ∧
  (∀ ns clk bits, nsToTicks ns clk bits = min ((2 * (ns * clk) + 1000000000) / 2000000000) (2 ^ bits - 1)) ∧
  (∀ t clk, 0 < clk → ticksToNs t clk = some ((2 * (t * 1000000000) + clk) / (2 * clk))) ∧
  (∀ clk pre k, chopperLevel clk pre k = clk / (pre * (k + 1))) ∧
  (∀ clk pre ns, chopperPulseCode clk pre ns =
    min ((2 * (ns * clk) + 1000000000 * pre) / (2 * (1000000000 * pre)) - 1) 15)

/-- What the divider returns is reached by the divisors it names, is not above the target, and no pair of the
tables gives a larger rate not above it; a pair before it in (coarse, fine) order is slower or too fast
(40_clock_divider.md R121, R124). -/
def Obligations.DividerFindsTheBestRate : Prop :=
  ∀ (src tgt : Nat) (coarse fine : List Nat) (r : DivResult), divSearch src tgt coarse fine = some r →
    r.achieved ≤ tgt ∧ r.achieved ≤ src ∧
    (∃ c f, coarse[r.ci]? = some c ∧ fine[r.fi]? = some f ∧ r.achieved = src / (c * f)) ∧
    (∀ c ∈ coarse, ∀ f ∈ fine, src / (c * f) ≤ tgt → src / (c * f) ≤ r.achieved) ∧
    (∀ ci fi c f, coarse[ci]? = some c → fine[fi]? = some f → (ci < r.ci ∨ ci = r.ci ∧ fi < r.fi) →
      src / (c * f) ≠ r.achieved)

/-- The divider fails exactly for a zero rate, a target above the source, or a target below the rate of the
largest divisors (40_clock_divider.md R124). -/
def Obligations.DividerFailsExactly : Prop :=
  ∀ (src tgt cLast fLast bits bits' : Nat) (coarse fine : List Nat),
    Params.Table bits coarse → Params.Table bits' fine →
    coarse.getLast? = some cLast → fine.getLast? = some fLast →
    (divSearch src tgt coarse fine = none ↔
      src = 0 ∨ tgt = 0 ∨ src < tgt ∨ tgt < src / (cLast * fLast))

/-- The bounds are exactly the frequencies whose period is 1 to `2^CTR_BITS - 1` (41_pwm_timebase.md R144), 65535 at
the default width; for another width the bounds are the model's reading of the rule (DEDUCED, entry 23). -/
def Obligations.BoundsAreTheLegalPeriods : Prop :=
  ∀ (bits : Nat) (md : Mode) (t f : Nat), 1 ≤ f →
    ((minFrequency bits md t ≤ f ∧ f ≤ maxFrequency t) ↔ (1 ≤ period md t f ∧ period md t f ≤ 2 ^ bits - 1))

/-- The compare value meets the duty within one tick: `|(p-k)/p - d/10000| < 1/p` in UP,
`|k/(p+1) - d/10000| < 1/(p+1)` in DOWN unless clamped, and within half a tick in UPDOWN, each multiplied out
(41_pwm_timebase.md R159); the clamp is the compare register's largest value (R146; for a width other than 16
DEDUCED, entry 23). -/
def Obligations.CompareMeetsTheDuty : Prop :=
  ∀ bits p d : Nat, 1 ≤ p → p ≤ 2 ^ bits - 1 → d ≤ 10000 →
    (compare bits .up p d ≤ p ∧
      |10000 * ((p : Int) - compare bits .up p d) - d * p| < 10000) ∧
    (compare bits .down p d ≤ 2 ^ bits - 1 ∧ ((p + 1) * d < 2 ^ bits * 10000 →
      |10000 * (compare bits .down p d : Int) - d * (p + 1)| < 10000)) ∧
    (compare bits .updown p d ≤ p ∧
      2 * |10000 * ((p : Int) - compare bits .updown p d) - d * p| ≤ 10000)

/-- High resolution gives the exact compare value in `1/s` ticks, truncated: compare and steps together are the
floor of `s` times the exact value, and the steps stay below `s` (44_sync_phase_hr.md R233; for a counter width
other than 16 DEDUCED, entry 23). -/
def Obligations.HighResolutionIsTheFraction : Prop :=
  ∀ b p d s : Nat, 1 ≤ s → d ≤ 10000 →
    (hrSteps b .up p d s < s ∧ compare b .up p d * s + hrSteps b .up p d s = p * (10000 - d) * s / 10000) ∧
    ((p + 1) * d < 2 ^ b * 10000 → hrSteps b .down p d s < s ∧
      compare b .down p d * s + hrSteps b .down p d s = (p + 1) * d * s / 10000) ∧
    (2 ^ b * 10000 ≤ (p + 1) * d → hrSteps b .down p d s = 0) ∧
    (hrSteps b .updown p d s < s ∧
      compare b .updown p d * s + hrSteps b .updown p d s = (2 * p * (10000 - d) + 10000) * s / 20000)

/-- A delay set and then read back (42_deadband_toggle.md R176): the request reads back exactly, and unless it was
clamped the register reads back within half a tick and half a nanosecond, `|r - x| <= T/2 + 1/2` with
`T = 1e9/tbclk`, multiplied out. The bound is met also where the nanoseconds do not fit 32 bits and the answer is a
free value (entry 9); for DB_SET_FALL and DB_GET_FALL it is DEDUCED from R173 and R175 (entry 9). -/
def Obligations.DeadBandReadbackBound : Prop :=
  ∀ (s : State) (m : ModuleIndex), s.usable m = true →
    let x := s.arg0.toNat
    let clk := (s.pwmAt m).tbclk.toNat
    let fits := 0 < clk ∧ (2 * (x * clk) + 1000000000) / 2000000000 ≤ 2 ^ s.params.dbBits - 1
    let near (r : Word) := 2 * clk * ((r.toNat : Int) - x).natAbs ≤ 1000000000 + clk
    s.params.dbBits ≤ 32 →
    (∃ u, exec (.dbSetRise m) s = .next u ∧
      (∃ v, exec (.dbGetRise m true) u = .next v ∧ v.statusCode = .ok ∧ v.res0 = s.arg0) ∧
      (∃ v, exec (.dbGetRise m false) u = .next v ∧ v.statusCode = .ok ∧ (fits → near v.res0))) ∧
    (∃ u, exec (.dbSetFall m) s = .next u ∧
      (∃ v, exec (.dbGetFall m true) u = .next v ∧ v.statusCode = .ok ∧ v.res0 = s.arg0) ∧
      (∃ v, exec (.dbGetFall m false) u = .next v ∧ v.statusCode = .ok ∧ (fits → near v.res0)))

/-- The chopper's frequency code names the largest level not above the request, and there is none exactly below
the lowest level (43_chopper.md R191; where that level is 0, below 64 Hz, the model accepts a request of 0: DEDUCED,
entry 19); over an ascending bound table a duty equal to a bound goes to the upper
bucket, and the code is at most the number of bounds (R193). -/
def Obligations.ChopperCodesQuantize : Prop :=
  (∀ clk pre f : Nat,
    (∀ k, chopperFreqCode clk pre f = some k →
      k < 8 ∧ chopperLevel clk pre k ≤ f ∧
      (∀ j, j < k → f < chopperLevel clk pre j) ∧
      (∀ j, j < 8 → chopperLevel clk pre j ≤ f → chopperLevel clk pre j ≤ chopperLevel clk pre k)) ∧
    (chopperFreqCode clk pre f = none ↔ f < chopperLevel clk pre 7)) ∧
  (∀ (bounds : List Nat) (d : Nat), bounds.Pairwise (· < ·) →
    (∀ (i b : Nat), bounds[i]? = some b → (b ≤ d ↔ i < chopperDutyCode bounds d)) ∧
    chopperDutyCode bounds d ≤ bounds.length) ∧
  chopperDutyCode Params.default.chpDutyBounds 1849 = 0 ∧
  chopperDutyCode Params.default.chpDutyBounds 1850 = 1

/-! ### Driver, time base -/

/-- NOP, DRV_INIT and CLKDIV_CALC with the tables its table bit selects (30_encoding.md R94, R105;
40_clock_divider.md R122, R123, R125, R126). -/
def Obligations.DriverCommandResults : Prop :=
  ∀ s : State,
    let search (coarse fine : List Nat) := divSearch s.arg0.toNat s.arg1.toNat coarse fine
    let answers (r : DivResult) : State :=
      { s with
        res0 := BitVec.ofNat 32 r.achieved
        res1 := 0#16 ++ BitVec.ofNat 8 r.fi ++ BitVec.ofNat 8 r.ci }
    Completes .nop s s ∧
    (s.drvReady = false → s.arg0 ≠ 0 → Completes .drvInit s { s with sysclk := s.arg0, drvReady := true }) ∧
    (s.drvReady = true ∨ s.arg0 = 0 → Ends .drvInit .rejected s) ∧
    (∀ r, search s.params.pwmCoarse s.params.pwmFine = some r → Completes (.clkdivCalc .pwm) s (answers r)) ∧
    (search s.params.pwmCoarse s.params.pwmFine = none → Ends (.clkdivCalc .pwm) .rejected s) ∧
    (∀ r, search s.params.adcCoarse s.params.adcFine = some r → Completes (.clkdivCalc .adc) s (answers r)) ∧
    (search s.params.adcCoarse s.params.adcFine = none → Ends (.clkdivCalc .adc) .rejected s)

/-- PWM_CONSTRUCT on a free slot with the clock set and a reachable rate (41_pwm_timebase.md R140): every field
at its reset value, then the mode, the achieved clock and its divisors; in its four cases it finishes `UNUSABLE`
and changes nothing else. PWM_RELEASE resets a usable module at once; PWM_STOP freezes a running one and changes
nothing else (R141, R150). -/
def Obligations.PwmLifeCycleResults : Prop :=
  ∀ (s : State) (m : ModuleIndex) (mode : BitVec 2) (md : Mode), Mode.ofBits mode = some md →
    (∀ r : DivResult, m.toNat < s.params.pwmModules → (s.pwmAt m).st = .uninit → s.drvReady = true →
      divSearch s.sysclk.toNat s.arg0.toNat s.params.pwmCoarse s.params.pwmFine = some r →
      Completes (.pwmConstruct m mode) s
        { s.setPwm m
            { PwmModule.reset with
              st := .constructed
              clkEn := true
              mode := md
              tbclk := BitVec.ofNat 32 r.achieved
              tbCoarse := BitVec.ofNat 3 r.ci
              tbFine := BitVec.ofNat 3 r.fi } with
          res0 := BitVec.ofNat 32 r.achieved
          res1 := 0#16 ++ BitVec.ofNat 8 r.fi ++ BitVec.ofNat 8 r.ci }) ∧
    (s.params.pwmModules ≤ m.toNat ∨ (s.pwmAt m).st ≠ .uninit ∨ s.drvReady = false ∨
      divSearch s.sysclk.toNat s.arg0.toNat s.params.pwmCoarse s.params.pwmFine = none →
      Ends (.pwmConstruct m mode) .unusable s) ∧
    (s.usable m = false → Ends (.pwmRelease m) .unusable s ∧ Ends (.pwmStop m) .unusable s) ∧
    (s.usable m = true →
      Completes (.pwmRelease m) s (s.setPwm m PwmModule.reset) ∧
      ((s.pwmAt m).st = .running →
        Completes (.pwmStop m) s (s.setPwm m { s.pwmAt m with st := .stopped })) ∧
      ((s.pwmAt m).st ≠ .running → Completes (.pwmStop m) s s))

/-- The task PWM_START and PWM_SET_TASK accept (41_pwm_timebase.md R145), and what they write when they accept
it (R147, R148, R149): both the shadow period, the compares of the task's channels and the snapshot;
PWM_START also loads the active registers and starts the counter; a task that is not accepted is `REJECTED`. A
register holds the value in its own width, which takes every value an accepted task gives it. For a `CTR_BITS` other
than 16 the bounds, the compare clamp and the high-resolution steps are the model's reading of the rules' literals
(DEDUCED, entry 23). -/
def Obligations.TaskCommandResults : Prop :=
  ∀ (s : State) (m : ModuleIndex) (n : BitVec 4),
    (s.usable m = false →
      Ends (.pwmSetTask m n) .unusable s ∧
      Ends (.pwmStart m n) .unusable s) ∧
    (s.usable m = true →
      let x := s.pwmAt m
      let d0 := s.arg1.extractLsb' 0 16
      let d1 := s.arg1.extractLsb' 16 16
      let p := period x.mode x.tbclk.toNat s.arg0.toNat
      let bits := s.params.ctrBits
      let ctr (v : Nat) : Word := BitVec.ofNat 32 (v % 2 ^ bits)
      let y : PwmModule :=
        { x with
          tbprd := ctr p
          cmp :=
            ⟨if 1 ≤ n.toNat then ctr (compare bits x.mode p d0.toNat) else x.cmp.c0,
             if 2 ≤ n.toNat then ctr (compare bits x.mode p d1.toNat) else x.cmp.c1⟩
          cmpahr := if x.hrEn = true ∧ 1 ≤ n.toNat then
            BitVec.ofNat 32 (hrSteps bits x.mode p d0.toNat x.hrScale.toNat % 2 ^ s.params.hrBits) else x.cmpahr
          taskValid := true
          taskFreq := s.arg0
          taskN := n.setWidth 2
          taskDuty := ⟨if 1 ≤ n.toNat then d0 else 0, if 2 ≤ n.toNat then d1 else 0⟩ }
      let accepted := n.toNat ≤ s.params.pwmChannels ∧ minFrequency bits x.mode x.tbclk.toNat ≤ s.arg0.toNat ∧
        s.arg0.toNat ≤ maxFrequency x.tbclk.toNat ∧ (1 ≤ n.toNat → d0.toNat ≤ 10000) ∧
        (2 ≤ n.toNat → d1.toNat ≤ 10000)
      (accepted → Completes (.pwmSetTask m n) s (s.setPwm m y)) ∧
      (accepted → Completes (.pwmStart m n) s
        ((s.setPwm m { y with st := .running, tbprdA := y.tbprd, cmpA := y.cmp, cmpahrA := y.cmpahr }).record
          (.shadowLoad m))) ∧
      (¬accepted → Ends (.pwmSetTask m n) .rejected s ∧ Ends (.pwmStart m n) .rejected s))

/-- PWM_GET_FREQ and PWM_GET_DUTY (41_pwm_timebase.md R155, R156): with set = 1 the request, with set = 0 the
recomputation from the shadow registers; `REJECTED` with no task, or for a channel outside it. -/
def Obligations.PwmTaskGetterResults : Prop :=
  ∀ (s : State) (m : ModuleIndex) (c : BitVec 4),
    (s.usable m = false →
      ∀ set, Ends (.pwmGetFreq m set) .unusable s ∧ Ends (.pwmGetDuty m c set) .unusable s) ∧
    (s.usable m = true →
      let x := s.pwmAt m
      let k := if c = 0 then x.cmp.c0.toNat else x.cmp.c1.toNat
      let p := x.tbprd.toNat
      (x.taskValid = false → ∀ set, Ends (.pwmGetFreq m set) .rejected s ∧ Ends (.pwmGetDuty m c set) .rejected s) ∧
      (s.params.pwmChannels ≤ c.toNat ∨ x.taskN.toNat ≤ c.toNat → ∀ set, Ends (.pwmGetDuty m c set) .rejected s) ∧
      (x.taskValid = true →
        Completes (.pwmGetFreq m true) s { s with res0 := x.taskFreq } ∧
        (x.mode ≠ .updown →
          Completes (.pwmGetFreq m false) s { s with res0 := BitVec.ofNat 32 (x.tbclk.toNat / (p + 1)) }) ∧
        (x.mode = .updown → 1 ≤ p →
          Completes (.pwmGetFreq m false) s { s with res0 := BitVec.ofNat 32 (x.tbclk.toNat / (2 * p)) })) ∧
      (x.taskValid = true → c.toNat < s.params.pwmChannels → c.toNat < x.taskN.toNat →
        Completes (.pwmGetDuty m c true) s
          { s with res0 := (if c = 0 then x.taskDuty.c0 else x.taskDuty.c1).setWidth 32 } ∧
        (x.mode ≠ .down → 1 ≤ p → Completes (.pwmGetDuty m c false) s
          { s with res0 := BitVec.ofNat 32 ((p - min k p) * 10000 / p) }) ∧
        (x.mode = .down → Completes (.pwmGetDuty m c false) s
          { s with res0 := BitVec.ofNat 32 (min k (p + 1) * 10000 / (p + 1)) })))

/-- PWM_GET_BOUNDS (clock above 0; a zero clock is in UnstatedResultsAreFreeValues), PWM_GET_STATE of any existing
module, and PWM_READ_REG with the register's view (41_pwm_timebase.md R157, R158, R160). For a `CTR_BITS` other than 16
the bounds are the model's reading of the literals of R144 (DEDUCED, entry 23). -/
def Obligations.PwmStatusGetterResults : Prop :=
  ∀ (s : State) (m : ModuleIndex),
    (m.toNat < s.params.pwmModules → Completes (.pwmGetState m) s
      { s with res0 := (s.pwmAt m).st.bits.setWidth 32, res1 := (s.pwmAt m).tbclk }) ∧
    (s.params.pwmModules ≤ m.toNat → Ends (.pwmGetState m) .unusable s) ∧
    (s.usable m = false → Ends (.pwmGetBounds m) .unusable s ∧ ∀ r, Ends (.pwmReadReg m r) .unusable s) ∧
    (s.usable m = true → 1 ≤ (s.pwmAt m).tbclk.toNat → Completes (.pwmGetBounds m) s
      { s with
        res0 := BitVec.ofNat 32 (minFrequency s.params.ctrBits (s.pwmAt m).mode (s.pwmAt m).tbclk.toNat)
        res1 := BitVec.ofNat 32 ((s.pwmAt m).tbclk.toNat - 1) }) ∧
    (s.usable m = true → ∀ r : PwmReg, Completes (.pwmReadReg m r) s { s with res0 := (s.pwmAt m).reg r })

/-- The views of PWM_READ_REG put each field at the bits the layouts give it (10_state.md R32, R34 to R36), and the
named values have the codes of 10_state.md R24, R26, R33, R42, 42_deadband_toggle.md R177, 41_pwm_timebase.md R160
and 45_event_trigger.md R240. -/
def Obligations.RegisterViewsPlaceTheFields : Prop :=
  ([.uninit, .constructed, .running, .stopped] : List LifeState).map LifeState.bits = [0, 1, 2, 3] ∧
  ([.up, .down, .updown] : List Mode).map Mode.bits = [0, 1, 2] ∧
  ([0, 1, 2, 3] : List (BitVec 2)).map Mode.ofBits = [some .up, some .down, some .updown, none] ∧
  ([.input, .period, .edge, .disable] : List SyncEvent).map SyncEvent.code = [0, 1, 2, 3] ∧
  ([.idle, .converting, .complete] : List SeqState).map SeqState.bits = [0, 1, 2] ∧
  ([.ctrZero, .ctrPrd, .ctruCmpa, .ctrdCmpa, .ctruCmpb, .ctrdCmpb] : List CtrEvent).map CtrEvent.code =
    [1, 2, 4, 5, 6, 7] ∧
  ([.output0, .output1, .polarity0, .polarity1, .input0, .input1, .chopperEnable, .phaseEnable] :
    List Toggle).map Toggle.code = [0, 1, 2, 3, 4, 5, 6, 7] ∧
  ([.tbprd, .tbprdA, .cmpa, .cmpaA, .cmpb, .cmpbA, .cmpahr, .cmpahrA, .dbred, .dbfed, .dbctl, .tbphs, .chpctl,
    .tbctl, .etsel, .hrcnfg] : List PwmReg).map PwmReg.code =
    [0, 1, 2, 3, 4, 5, 6, 7, 8, 9, 10, 11, 12, 13, 14, 15] ∧
  ∀ x : PwmModule,
    (x.reg .chpctl).toNat = x.chpEn.toNat + 2 * x.oshtwth.toNat + 2 ^ 5 * x.chpFreq.toNat +
      2 ^ 8 * x.chpDuty.toNat ∧
    (x.reg .tbctl).toNat = (if x.st = .running then x.mode.bits.toNat else 3) + 2 ^ 2 * x.phsEn.toNat +
      2 ^ 4 * x.syncEvent.code.toNat + 2 ^ 7 * x.tbFine.toNat + 2 ^ 10 * x.tbCoarse.toNat +
      2 ^ 13 * x.phsDir.toNat ∧
    (x.reg .etsel).toNat = 2 ^ 8 * x.socSel.c0.toNat + 2 ^ 11 * x.socEn.c0.toNat +
      2 ^ 12 * x.socSel.c1.toNat + 2 ^ 15 * x.socEn.c1.toNat ∧
    (x.reg .hrcnfg).toNat = x.hrEn.toNat + 2 ^ 8 * x.hrScale.toNat ∧
    (x.reg .tbprd).toNat = x.tbprd.toNat ∧ (x.reg .tbprdA).toNat = x.tbprdA.toNat ∧
    (x.reg .cmpa).toNat = x.cmp.c0.toNat ∧ (x.reg .cmpaA).toNat = x.cmpA.c0.toNat ∧
    (x.reg .cmpb).toNat = x.cmp.c1.toNat ∧ (x.reg .cmpbA).toNat = x.cmpA.c1.toNat ∧
    (x.reg .cmpahr).toNat = x.cmpahr.toNat ∧ (x.reg .cmpahrA).toNat = x.cmpahrA.toNat ∧
    (x.reg .dbred).toNat = x.dbred.toNat ∧ (x.reg .dbfed).toNat = x.dbfed.toNat ∧
    (x.reg .dbctl).toNat = x.dbctl.toNat ∧ (x.reg .tbphs).toNat = x.tbphs.toNat

/-! ### Dead-band, Toggles, chopper -/

/-- The dead-band commands (42_deadband_toggle.md R172 to R175). The readback of the ticks is stated where the
clock is not 0 and the nanoseconds fit the 32-bit result, and where no ticks stand, at every clock: it is 0, as R174
and R175 say before any set command (after one, at a clock of 0, DEDUCED, entry 24). -/
def Obligations.DeadBandResults : Prop :=
  ∀ (s : State) (m : ModuleIndex),
    (s.usable m = false →
      Ends (.dbSetRise m) .unusable s ∧
      Ends (.dbSetFall m) .unusable s ∧
      ∀ set, Ends (.dbGetRise m set) .unusable s ∧ Ends (.dbGetFall m set) .unusable s) ∧
    (s.usable m = true →
      let x := s.pwmAt m
      let ticks := min ((2 * (s.arg0.toNat * x.tbclk.toNat) + 1000000000) / 2000000000) (2 ^ s.params.dbBits - 1)
      let ns (t : Nat) := (2 * (t * 1000000000) + x.tbclk.toNat) / (2 * x.tbclk.toNat)
      Completes (.dbSetRise m) s
        (s.setPwm m { x with dbRiseNs := s.arg0, dbred := BitVec.ofNat 32 ticks }) ∧
      Completes (.dbSetFall m) s
        (s.setPwm m { x with dbFallNs := s.arg0, dbfed := BitVec.ofNat 32 ticks }) ∧
      Completes (.dbGetRise m true) s { s with res0 := x.dbRiseNs } ∧
      Completes (.dbGetFall m true) s { s with res0 := x.dbFallNs } ∧
      (0 < x.tbclk.toNat → ns x.dbred.toNat < 2 ^ 32 →
        Completes (.dbGetRise m false) s { s with res0 := BitVec.ofNat 32 (ns x.dbred.toNat) }) ∧
      (0 < x.tbclk.toNat → ns x.dbfed.toNat < 2 ^ 32 →
        Completes (.dbGetFall m false) s { s with res0 := BitVec.ofNat 32 (ns x.dbfed.toNat) }) ∧
      (x.dbred = 0 → Completes (.dbGetRise m false) s { s with res0 := 0 }) ∧
      (x.dbfed = 0 → Completes (.dbGetFall m false) s { s with res0 := 0 }))

/-- The Toggle commands (42_deadband_toggle.md R178, R179, R181): DISABLE clears the bit and returns the old
one, ENABLE sets it only with status 1, READ returns it. -/
def Obligations.ToggleResults : Prop :=
  ∀ (s : State) (m : ModuleIndex) (t : Toggle),
    (s.usable m = false →
      Ends (.tglDisable m t) .unusable s ∧
      Ends (.tglRead m t) .unusable s ∧
      ∀ status, Ends (.tglEnable m t status) .unusable s) ∧
    (s.usable m = true →
      let old : Word := if (s.pwmAt m).toggle t then 1 else 0
      Completes (.tglDisable m t) s
        { s.setPwm m ((s.pwmAt m).setToggle t false) with res0 := old } ∧
      Completes (.tglEnable m t true) s (s.setPwm m ((s.pwmAt m).setToggle t true)) ∧
      Completes (.tglEnable m t false) s s ∧
      Completes (.tglRead m t) s { s with res0 := old })

/-- Writing a Toggle writes one bit: it reads back, the other seven keep their value, every other bit of the three
registers and every other field of the module keep theirs, and so does the view of every other register. Toggles 0 to 5 are `DBCTL[0]` to `DBCTL[5]`, toggle 6 is
`CHPCTL[0]` and toggle 7 is `TBCTL[2]` (42_deadband_toggle.md R177). -/
def Obligations.ToggleWritesOneBit : Prop :=
  ∀ (x : PwmModule) (t t' : Toggle) (b : Bool),
    x.setToggle t b =
      { x with
        dbctl := (x.setToggle t b).dbctl
        chpEn := if t = .chopperEnable then b else x.chpEn
        phsEn := if t = .phaseEnable then b else x.phsEn } ∧
    (∀ k, k < 6 → (x.setToggle t b).dbctl.getLsbD k = if k = t.code.toNat then b else x.dbctl.getLsbD k) ∧
    (∀ k, k ≠ 0 → (x.setToggle t b).chpctl.getLsbD k = x.chpctl.getLsbD k) ∧
    (∀ k, k ≠ 2 → (x.setToggle t b).tbctl.getLsbD k = x.tbctl.getLsbD k) ∧
    (x.setToggle t b).toggle t' = (if t' = t then b else x.toggle t') ∧
    (x.toggle t = b → x.setToggle t b = x) ∧
    (∀ r : PwmReg, r ≠ .dbctl → r ≠ .chpctl → r ≠ .tbctl → (x.setToggle t b).reg r = x.reg r) ∧
    x.toggle .chopperEnable = x.chpctl.getLsbD 0 ∧ x.toggle .phaseEnable = x.tbctl.getLsbD 2 ∧
    (x.dbctl.toNat = (x.toggle .output0).toNat + 2 * (x.toggle .output1).toNat +
      4 * (x.toggle .polarity0).toNat + 8 * (x.toggle .polarity1).toNat +
      16 * (x.toggle .input0).toNat + 32 * (x.toggle .input1).toNat)

/-- Disable, then enable with the returned bit, restores the whole module (42_deadband_toggle.md R182). -/
def Obligations.ToggleRestoreIdiom : Prop :=
  ∀ (s : State) (m : ModuleIndex) (t : Toggle), s.usable m = true →
    ∃ u v : State, exec (.tglDisable m t) s = .next u ∧ (u.pwmAt m).toggle t = false ∧
      exec (.tglEnable m t (u.res0 == 1)) u = .next v ∧ v.pwmAt m = s.pwmAt m

/-- The chopper's setters (43_chopper.md R192, R194, R196); a request is rejected exactly below the lowest level, so
with a system clock below 64 Hz a request of 0 is accepted (DEDUCED, entry 19). -/
def Obligations.ChopperSetterResults : Prop :=
  ∀ (s : State) (m : ModuleIndex),
    (s.usable m = false →
      Ends (.chpSetFreq m) .unusable s ∧
      Ends (.chpSetDuty m) .unusable s ∧
      Ends (.chpSetPulse m) .unusable s) ∧
    (s.usable m = true →
      let x := s.pwmAt m
      (∀ k, chopperFreqCode s.sysclk.toNat s.params.chpPrescale s.arg0.toNat = some k →
        Completes (.chpSetFreq m) s
          (s.setPwm m { x with chpFreqReq := s.arg0, chpFreq := BitVec.ofNat 3 k })) ∧
      (s.arg0.toNat < s.sysclk.toNat / (s.params.chpPrescale * 8) → Ends (.chpSetFreq m) .rejected s) ∧
      (s.arg0.toNat ≤ 10000 → Completes (.chpSetDuty m) s
        (s.setPwm m
          { x with
            chpDutyReq := s.arg0.setWidth 16
            chpDuty := BitVec.ofNat 3 (chopperDutyCode s.params.chpDutyBounds s.arg0.toNat) })) ∧
      (10000 < s.arg0.toNat → Ends (.chpSetDuty m) .rejected s) ∧
      Completes (.chpSetPulse m) s
        (s.setPwm m
          { x with
            chpPulseReq := s.arg0
            oshtwth := BitVec.ofNat 4
              (chopperPulseCode s.sysclk.toNat s.params.chpPrescale s.arg0.toNat) }))

/-- The chopper's getters (43_chopper.md R197 to R199). The readback of the first pulse is stated where the
system clock is not 0 and the nanoseconds fit the 32-bit result. -/
def Obligations.ChopperGetterResults : Prop :=
  ∀ (s : State) (m : ModuleIndex),
    (s.usable m = false →
      ∀ set, Ends (.chpGetFreq m set) .unusable s ∧ Ends (.chpGetDuty m set) .unusable s ∧
        Ends (.chpGetPulse m set) .unusable s) ∧
    (s.usable m = true →
      let x := s.pwmAt m
      let ns := (2 * ((x.oshtwth.toNat + 1) * s.params.chpPrescale * 1000000000) + s.sysclk.toNat) /
        (2 * s.sysclk.toNat)
      Completes (.chpGetFreq m true) s { s with res0 := x.chpFreqReq } ∧
      Completes (.chpGetFreq m false) s
        { s with res0 := BitVec.ofNat 32 (s.sysclk.toNat / (s.params.chpPrescale * (x.chpFreq.toNat + 1))) } ∧
      Completes (.chpGetDuty m true) s { s with res0 := x.chpDutyReq.setWidth 32 } ∧
      Completes (.chpGetDuty m false) s { s with res0 := BitVec.ofNat 32 ((x.chpDuty.toNat + 1) * 1250) } ∧
      Completes (.chpGetPulse m true) s { s with res0 := x.chpPulseReq } ∧
      (0 < s.sysclk.toNat → ns < 2 ^ 32 →
        Completes (.chpGetPulse m false) s { s with res0 := BitVec.ofNat 32 ns }))

/-! ### Synchronisation, phase, high resolution, event trigger -/

/-- The synchronisation commands (44_sync_phase_hr.md R211 to R214): SYNC_SYNCHRONIZE is a no-op that returns 0
while the event is `DISABLE`, and otherwise records the pulse's events and returns 1. -/
def Obligations.SyncCommandResults : Prop :=
  ∀ (s : State) (m : ModuleIndex),
    (s.usable m = false →
      (∀ e, Ends (.syncSetEvent m e) .unusable s) ∧
      Ends (.syncGetEvent m) .unusable s ∧
      Ends (.syncIsSynchronizing m) .unusable s ∧
      Ends (.syncSynchronize m) .unusable s) ∧
    (s.usable m = true →
      let x := s.pwmAt m
      (∀ e, Completes (.syncSetEvent m e) s (s.setPwm m { x with syncEvent := e })) ∧
      Completes (.syncGetEvent m) s { s with res0 := x.syncEvent.code.setWidth 32 } ∧
      Completes (.syncIsSynchronizing m) s { s with res0 := if x.syncEvent = .disable then 0 else 1 } ∧
      (x.syncEvent = .disable → Completes (.syncSynchronize m) s { s with res0 := 0 }) ∧
      (x.syncEvent ≠ .disable → Completes (.syncSynchronize m) s
        { s with res0 := 1, history := s.history ++ s.syncPulseEvents m }))

/-- The sync chain (44_sync_phase_hr.md R220 to R223). The pulse of module `m` records `SyncOut(m)` first and is then
the sync input of the next module, if there is one; `EV_SYNCIN` is the sync input of module 0. Along the chain a
module that is `Uninit` or has an event other than `INPUT` stops the pulse: a module after it records nothing, a module
before it records its own `SyncOut`, and a module that is not `Running` or has its phase disabled records no load. -/
def Obligations.SyncChainPassesAndStops : Prop :=
  ∀ s : State, 1 ≤ s.params.pwmModules → s.params.pwmModules ≤ 16 →
    (∀ rest, NextInput s .evSyncIn rest →
      step s = .next { s with inputs := rest, history := s.history ++ syncInputRecords s 0 }) ∧
    ∀ m : ModuleIndex,
      (s.params.pwmModules ≤ m.toNat + 1 → s.syncPulseEvents m = [.syncOut m]) ∧
      (m.toNat + 1 < s.params.pwmModules →
        s.syncPulseEvents m = .syncOut m :: syncInputRecords s (BitVec.ofNat 4 (m.toNat + 1))) ∧
      ∀ j : ModuleIndex, m.toNat < j.toNat → j.toNat < s.params.pwmModules →
        let passes (k : ModuleIndex) := (s.pwmAt k).st ≠ .uninit ∧ (s.pwmAt k).syncEvent = .input
        ((∀ k : ModuleIndex, m.toNat < k.toNat → k.toNat ≤ j.toNat → passes k) →
          .syncOut j ∈ s.syncPulseEvents m) ∧
        ((∀ k : ModuleIndex, m.toNat < k.toNat → k.toNat < j.toNat → passes k) →
          (s.pwmAt j).st = .running → (s.pwmAt j).phsEn = true →
          .syncLoad j (s.pwmAt j).tbphs (s.pwmAt j).phsDir ∈ s.syncPulseEvents m) ∧
        (¬passes j → .syncOut j ∉ s.syncPulseEvents m) ∧
        (¬((s.pwmAt j).st = .running ∧ (s.pwmAt j).phsEn = true) →
          ∀ ph dir, .syncLoad j ph dir ∉ s.syncPulseEvents m) ∧
        ((∃ k : ModuleIndex, m.toNat < k.toNat ∧ k.toNat < j.toNat ∧ ¬passes k) →
          .syncOut j ∉ s.syncPulseEvents m ∧ ∀ ph dir, .syncLoad j ph dir ∉ s.syncPulseEvents m)

/-- The phase commands (44_sync_phase_hr.md R225 to R228): PHS_SET writes nothing, silently, while high
resolution is on. The readback is stated where the clock is not 0 and the nanoseconds fit the result, and where no
ticks stand it is 0 at every clock (at a clock of 0 DEDUCED, entry 24). -/
def Obligations.PhaseResults : Prop :=
  ∀ (s : State) (m : ModuleIndex),
    (s.usable m = false →
      Ends (.phsSet m) .unusable s ∧
      Ends (.phsGetDir m) .unusable s ∧
      ∀ b, Ends (.phsGet m b) .unusable s ∧ Ends (.phsSetDir m b) .unusable s) ∧
    (s.usable m = true →
      let x := s.pwmAt m
      let ticks := min ((2 * (s.arg0.toNat * x.tbclk.toNat) + 1000000000) / 2000000000) (2 ^ s.params.phsBits - 1)
      let ns := (2 * (x.tbphs.toNat * 1000000000) + x.tbclk.toNat) / (2 * x.tbclk.toNat)
      (x.hrEn = true → Completes (.phsSet m) s s) ∧
      (x.hrEn = false → Completes (.phsSet m) s
        (s.setPwm m { x with phaseNs := s.arg0, tbphs := BitVec.ofNat 32 ticks })) ∧
      Completes (.phsGet m true) s { s with res0 := x.phaseNs } ∧
      (0 < x.tbclk.toNat → ns < 2 ^ 32 →
        Completes (.phsGet m false) s { s with res0 := BitVec.ofNat 32 ns }) ∧
      (x.tbphs = 0 → Completes (.phsGet m false) s { s with res0 := 0 }) ∧
      (∀ dir, Completes (.phsSetDir m dir) s (s.setPwm m { x with phsDir := dir })) ∧
      Completes (.phsGetDir m) s { s with res0 := if x.phsDir then 1 else 0 })

/-- The high-resolution commands and the resolution report (44_sync_phase_hr.md R230 to R232, R234). A resolution of
`2^32` and more still has its logarithm in `RES0`, while `RES1`, which cannot hold it, takes a free value (DESIGN
CHOICE, entry 9). For a
`CTR_BITS` other than 16 the clamp that DOWN mode's steps follow is the model's reading of the literal of R233 (DEDUCED,
entry 23). -/
def Obligations.HighResolutionResults : Prop :=
  ∀ (s : State) (m : ModuleIndex),
    (s.usable m = false →
      Ends (.hrEnable m) .unusable s ∧
      Ends (.hrDisable m) .unusable s ∧
      Ends (.hrIsEnabled m) .unusable s ∧
      Ends (.pwmGetResolution m) .unusable s) ∧
    (s.usable m = true →
      let x := s.pwmAt m
      let r := x.tbclk.toNat * (if x.hrEn then x.hrScale.toNat else 1) / x.taskFreq.toNat
      (s.arg0 = 0 ∨ 255 < s.arg0.toNat → Ends (.hrEnable m) .rejected s) ∧
      (s.arg0 ≠ 0 → s.arg0.toNat ≤ 255 → Completes (.hrEnable m) s
        (s.setPwm m
          { x with
            hrScale := s.arg0.setWidth 8
            hrEn := true
            cmpahr := if x.taskValid = true ∧ 1 ≤ x.taskN.toNat then
              BitVec.ofNat 32 (hrSteps s.params.ctrBits x.mode x.tbprd.toNat x.taskDuty.c0.toNat s.arg0.toNat %
                2 ^ s.params.hrBits)
              else x.cmpahr })) ∧
      Completes (.hrDisable m) s (s.setPwm m { x with hrEn := false, cmpahr := 0 }) ∧
      Completes (.hrIsEnabled m) s { s with res0 := if x.hrEn then 1 else 0 } ∧
      (x.taskValid = false → Ends (.pwmGetResolution m) .rejected s) ∧
      (x.taskValid = true → 1 ≤ x.taskFreq.toNat → 1 ≤ r → r < 2 ^ 32 → Completes (.pwmGetResolution m) s
        { s with res0 := BitVec.ofNat 32 (Nat.log 2 r), res1 := BitVec.ofNat 32 r }) ∧
      (x.taskValid = true → 2 ^ 32 ≤ r → ∃ v : Word, Completes (.pwmGetResolution m) s
        { s with res0 := BitVec.ofNat 32 (Nat.log 2 r), res1 := v, draws := s.draws + 1 }))

/-- The event-trigger commands (45_event_trigger.md R242 to R244): codes 0 and 3 are `REJECTED` with no
write. -/
def Obligations.EventTriggerResults : Prop :=
  ∀ (s : State) (m : ModuleIndex) (x : Soc) (e : BitVec 3),
    (s.usable m = false →
      Ends (.etSetEvent m x e) .unusable s ∧
      Ends (.etResetEvent m x) .unusable s ∧
      Ends (.etGetEvent m x) .unusable s) ∧
    (s.usable m = true →
      let p := s.pwmAt m
      let en (b : Bool) : Pair Bool := if x = .soca then ⟨b, p.socEn.c1⟩ else ⟨p.socEn.c0, b⟩
      let sel : Pair (BitVec 3) := if x = .soca then ⟨e, p.socSel.c1⟩ else ⟨p.socSel.c0, e⟩
      (e ≠ 0 → e ≠ 3 → Completes (.etSetEvent m x e) s (s.setPwm m { p with socSel := sel, socEn := en true })) ∧
      (e = 0 ∨ e = 3 → Ends (.etSetEvent m x e) .rejected s) ∧
      Completes (.etResetEvent m x) s (s.setPwm m { p with socEn := en false }) ∧
      Completes (.etGetEvent m x) s
        { s with
          res0 :=
            if x = .soca then (if p.socEn.c0 then p.socSel.c0.setWidth 32 else 0)
            else (if p.socEn.c1 then p.socSel.c1.setWidth 32 else 0) })

/-! ### ADC sequencer -/

/-- ADC_CONSTRUCT, ADC_RELEASE and ADC_GET_CLOCK (46_adc_sequencer.md R256 to R258): construction resets the
ADC, clears every written mark and stores the achieved clock; release resets the ADC and keeps the sample RAM. -/
def Obligations.AdcLifeCycleResults : Prop :=
  ∀ s : State,
    (∀ r : DivResult, s.adc.st = .uninit → s.drvReady = true →
      divSearch s.sysclk.toNat s.arg0.toNat s.params.adcCoarse s.params.adcFine = some r →
      Completes .adcConstruct s
        { s with
          written := []
          adc := { AdcState.reset with
            st := .constructed
            clock := BitVec.ofNat 32 r.achieved
            coarse := BitVec.ofNat 3 r.ci
            fine := BitVec.ofNat 4 r.fi }
          res0 := BitVec.ofNat 32 r.achieved
          res1 := 0#16 ++ BitVec.ofNat 8 r.fi ++ BitVec.ofNat 8 r.ci }) ∧
    (s.adc.st = .constructed ∨ s.drvReady = false ∨
      divSearch s.sysclk.toNat s.arg0.toNat s.params.adcCoarse s.params.adcFine = none →
      Ends .adcConstruct .unusable s) ∧
    (s.adc.st = .constructed → Completes .adcRelease s { s with adc := AdcState.reset }) ∧
    (s.adc.st = .constructed → Completes .adcGetClock s { s with res0 := s.adc.clock }) ∧
    (s.adc.st ≠ .constructed → Ends .adcRelease .unusable s ∧ Ends .adcGetClock .unusable s)

/-- ADC_REGISTER_TASK (46_adc_sequencer.md R259, R260): a valid task on a constructed ADC with none bound is
bound, the ring starts empty and every written mark is cleared; a second or an invalid task is `REJECTED`. -/
def Obligations.AdcRegisterTaskResult : Prop :=
  ∀ (s : State),
    (s.adc.st ≠ .constructed →
      Ends .adcRegisterTask .unusable s) ∧
    (s.adc.st = .constructed →
      let b := s.arg0.extractLsb' 0 8
      let q := s.arg0.extractLsb' 8 8
      let c := s.arg0.extractLsb' 16 4
      let r := s.arg0.extractLsb' 20 2
      let valid := s.arg0.extractLsb' 22 10 = 0#10 ∧ 1 ≤ b.toNat ∧ 1 ≤ q.toNat ∧ 1 ≤ c.toNat ∧
        c.toNat ≤ s.params.adcMaxChannels ∧
        r.toNat = (if s.params.adcSimultaneous then 2 else 1) ∧
        b.toNat * q.toNat * c.toNat * r.toNat ≤ s.params.adcBufWords
      (s.adc.bound = true ∨ ¬valid → Ends .adcRegisterTask .rejected s) ∧
      (s.adc.bound = false → valid → ∃ sel : Vector (BitVec 4) 8,
        (∀ (k : Nat) (h : k < 8), sel[k] = if k < c.toNat then s.arg1.extractLsb' (4 * k) 4 else 0#4) ∧
        Completes .adcRegisterTask s
          { s with
            written := []
            adc := { s.adc with
              chsel := sel
              maxconv := BitVec.ofNat 3 (c.toNat - 1)
              nBlocks := b
              nSeq := q
              nChan := c
              nRes := r
              free := 0
              full := 0
              isFilled := false
              seqLeft := 0
              blockDone := false
              dropped := false
              socOverrun := false
              bound := true } }))

/-- ADC_SET_TRIGGER and ADC_TRIGGER (46_adc_sequencer.md R265, R266, R267): source 0 forgets the module, a module
out of range is `REJECTED`; a software trigger starts a pass when the sequencer is `Idle`, is lost and flagged
when it is not, and is `REJECTED` with no task. -/
def Obligations.AdcTriggerResults : Prop :=
  ∀ (s : State) (m : ModuleIndex),
    (s.adc.st ≠ .constructed →
      (∀ src : BitVec 2, src ≠ 3 → Ends (.adcSetTrigger m src) .unusable s) ∧
      Ends .adcTrigger .unusable s) ∧
    (s.adc.st = .constructed →
      Completes (.adcSetTrigger m 0) s { s with adc := { s.adc with trigSrc := .software, trigMod := 0 } } ∧
      (m.toNat < s.params.pwmModules →
        Completes (.adcSetTrigger m 1) s { s with adc := { s.adc with trigSrc := .soca, trigMod := m } } ∧
        Completes (.adcSetTrigger m 2) s { s with adc := { s.adc with trigSrc := .socb, trigMod := m } }) ∧
      (s.params.pwmModules ≤ m.toNat →
        Ends (.adcSetTrigger m 1) .rejected s ∧ Ends (.adcSetTrigger m 2) .rejected s) ∧
      (s.adc.bound = false → Ends .adcTrigger .rejected s) ∧
      (s.adc.bound = true → s.adc.seqState = .idle → Completes .adcTrigger s
        { s with
          adc := { s.adc with seqState := .converting }
          history := s.history ++ [.convStart .software] }) ∧
      (s.adc.bound = true → s.adc.seqState ≠ .idle →
        Completes .adcTrigger s { s with adc := { s.adc with socOverrun := true } }))

/-! ### Counter events, conversion -/

/-- A counter event comes exactly while the module is `Running` (45_event_trigger.md R246, 41_pwm_timebase.md
R151), loads the shadow registers exactly at `CTR_ZERO` (R152), and changes no other module, no result and no
sample. THE MODEL'S CHOICE: where the event does not come, the step is the fault eventNotEnabled (entry 6). -/
def Obligations.CounterEventLoadsAtZero : Prop :=
  ∀ (s : State) (m : ModuleIndex) (e : CtrEvent) (rest : List Input), NextInput s (.evCtr m e) rest →
    (¬(m.toNat < s.params.pwmModules ∧ (s.pwmAt m).st = .running) → step s = .fault .eventNotEnabled) ∧
    (m.toNat < s.params.pwmModules → (s.pwmAt m).st = .running → ∃ t, step s = .next t ∧
      t.pwmAt m = (if e = .ctrZero then
        { s.pwmAt m with
          tbprdA := (s.pwmAt m).tbprd
          cmpA := (s.pwmAt m).cmp
          cmpahrA := (s.pwmAt m).cmpahr }
        else s.pwmAt m) ∧
      (∀ k : ModuleIndex, k ≠ m → t.pwmAt k = s.pwmAt k) ∧
      t.sram = s.sram ∧ t.written = s.written ∧ t.res0 = s.res0 ∧ t.res1 = s.res1 ∧
      t.inputs = rest)

/-- The whole effect of a counter event, with its records in their order: the event, the shadow load at `CTR_ZERO`,
the SOC lines (SOCA before SOCB), each with the pass it starts, and the sync-out (45_event_trigger.md R246, R247;
60_exceptions.md R323). A line the ADC takes starts a pass on an `Idle` sequencer, and is lost and flagged on a busy
one (46_adc_sequencer.md R267, R268). -/
def Obligations.CounterEventRecordsInOrder : Prop :=
  ∀ (s : State) (m : ModuleIndex) (e : CtrEvent) (rest : List Input), NextInput s (.evCtr m e) rest →
    m.toNat < s.params.pwmModules → (s.pwmAt m).st = .running →
    let p := s.pwmAt m
    let a := s.adc
    let fires (x : Soc) := if x = .soca then p.socEn.c0 = true ∧ p.socSel.c0 = e.code
      else p.socEn.c1 = true ∧ p.socSel.c1 = e.code
    let taken (x : Soc) := fires x ∧ a.st = .constructed ∧ a.bound = true ∧ a.trigMod = m ∧
      a.trigSrc = (if x = .soca then .soca else .socb)
    let line (x : Soc) : List Event := if fires x then
      .soc m x :: (if taken x ∧ a.seqState = .idle then [.convStart (.pwm m x)] else []) else []
    let syncs := p.syncEvent = .period ∧ e = .ctrPrd ∨
      p.syncEvent = .edge ∧ (e = .ctruCmpb ∨ e = .ctrdCmpb)
    let loaded : State := if e = .ctrZero then
      s.setPwm m { p with tbprdA := p.tbprd, cmpA := p.cmp, cmpahrA := p.cmpahr } else s
    step s = .next
      { loaded with
        inputs := rest
        adc := if taken .soca ∨ taken .socb then
          (if a.seqState = .idle then { a with seqState := .converting } else { a with socOverrun := true }) else a
        history := s.history ++ [.ctrEvent m e] ++ (if e = .ctrZero then [.shadowLoad m] else []) ++
          line .soca ++ line .socb ++ (if syncs then s.syncPulseEvents m else []) }

/-- A SOC pulse starts a pass exactly when the ADC is constructed, a task is bound and the trigger source is its
line of its module; on a busy sequencer it is lost and flagged (46_adc_sequencer.md R267, R268). -/
def Obligations.SocStartsAPass : Prop :=
  ∀ (s : State) (m : ModuleIndex) (x : Soc),
    let source := s.adc.st = .constructed ∧ s.adc.bound = true ∧ s.adc.trigMod = m ∧
      s.adc.trigSrc = (if x = .soca then .soca else .socb)
    (¬source → s.socPulse m x = { s with history := s.history ++ [.soc m x] }) ∧
    (source → s.adc.seqState = .idle → s.socPulse m x =
      { s with
        adc := { s.adc with seqState := .converting }
        history := s.history ++ [.soc m x, .convStart (.pwm m x)] }) ∧
    (source → s.adc.seqState ≠ .idle → s.socPulse m x =
      { s with
        adc := { s.adc with socOverrun := true }
        history := s.history ++ [.soc m x] })

/-- A conversion completes exactly while a bound pass converts, with `sampleNumber` draws of the result width
(46_adc_sequencer.md R270): the drawn registers take the draws, the others keep their values, and the pass
becomes `Complete` with its flag. THE MODEL'S CHOICE: a conversion that is not enabled is the fault eventNotEnabled,
and other values are the fault drawNotAdmitted (entry 6). -/
def Obligations.ConversionWritesTheResults : Prop :=
  ∀ (s : State) (v : List Half) (rest : List Input), NextInput s (.evConv v) rest →
    let enabled := s.adc.st = .constructed ∧ s.adc.bound = true ∧ s.adc.seqState = .converting
    let admitted := v.length = s.adc.nChan.toNat * s.adc.nRes.toNat ∧
      ∀ d ∈ v, d.toNat < 2 ^ s.params.adcResultBits
    (¬enabled → step s = .fault .eventNotEnabled) ∧
    (enabled → ¬admitted → step s = .fault .drawNotAdmitted) ∧
    (enabled → admitted → ∃ r : Vector Half 16,
      (∀ (k : Nat) (h : k < 16), r[k] =
        if k < s.params.adcResults then v.getD k s.adc.result[k] else s.adc.result[k]) ∧
      step s = .next
        { s with
          inputs := rest
          adc := { s.adc with result := r, seqState := .complete, intFlag := true }
          history := s.history ++ [.convDone v] })

/-! ### Ring and capture -/

/-- The capture engine runs exactly with a constructed ADC and `intFlag` (47_ring_buffer.md R290); with no task
bound it only resets the sequencer (90_conflicts.md C4), and under `DROP_NEWEST` a sequence that would start a
block on a full ring is lost (R292). THE MODEL'S CHOICE: a capture that is not enabled is the fault eventNotEnabled
(entry 6). -/
def Obligations.CaptureWithoutStoring : Prop :=
  ∀ (s : State) (rest : List Input), NextInput s .evCapture rest →
    (¬(s.adc.st = .constructed ∧ s.adc.intFlag = true) → step s = .fault .eventNotEnabled) ∧
    (s.adc.st = .constructed → s.adc.intFlag = true → s.adc.bound = false → step s = .next
      { s with inputs := rest, adc := { s.adc with seqState := .idle, intFlag := false } }) ∧
    (s.adc.st = .constructed → s.adc.intFlag = true → s.adc.bound = true → s.adc.seqLeft = 0 →
      s.adc.isFilled = true → s.params.overflowPolicy = .dropNewest → step s = .next
      { s with
        inputs := rest
        adc := { s.adc with dropped := true, seqState := .idle, intFlag := false }
        history := s.history ++ [.drop .newest] })

/-- A capture stores the results at `ADDR(free, nSeq - seqLeft, k)`, marks those words, and leaves every other
byte and mark alone (47_ring_buffer.md R290, R281). THE MODEL'S CHOICE: word `i` is the bytes `2 i` and `2 i + 1`
(entry 10). -/
def Obligations.CaptureStoresTheSequence : Prop :=
  ∀ (s : State) (rest : List Input), s.Legal → NextInput s .evCapture rest → Captures s →
    let n := s.adc.nChan.toNat * s.adc.nRes.toNat
    let addr := s.adc.free.toNat * (s.adc.nSeq.toNat * n) + (s.adc.nSeq.toNat - leftBefore s.adc) * n
    ∃ t, step s = .next t ∧
      (∀ (k : Nat) (h : k < 16), k < n →
        Memory.readHalf t.sram (addr + k) = some s.adc.result[k] ∧ addr + k ∈ t.written) ∧
      (∀ a, a < 2 * addr ∨ 2 * (addr + n) ≤ a → Memory.readByte t.sram a = Memory.readByte s.sram a) ∧
      (∀ i, i < addr ∨ addr + n ≤ i → (i ∈ t.written ↔ i ∈ s.written)) ∧
      t.pwm = s.pwm ∧ t.res0 = s.res0 ∧ t.res1 = s.res1 ∧ t.faults = s.faults

/-- The ADC and the records after a capture that stores its sequence (47_ring_buffer.md R283, R290; 20_memory.md R82):
the sequence is counted, the sequencer reset, `DROPPED` set exactly when a block starts on a full ring; the block is
published, by advancing `free`, only with its last sequence; every other field is kept. The records are the lost
block, the capture, and the completed block, in that order. -/
def Obligations.CapturePublishesTheLastSequence : Prop :=
  ∀ (s : State) (rest : List Input), s.Legal → NextInput s .evCapture rest → Captures s →
    let a := s.adc
    let next (x : BitVec 8) := BitVec.ofNat 8 ((x.toNat + 1) % a.nBlocks.toNat)
    let overwrites := a.seqLeft = 0 ∧ a.isFilled = true
    let last := leftBefore a = 1
    ∃ t, step s = .next t ∧
      t.adc =
        { a with
          seqState := .idle
          intFlag := false
          seqLeft := BitVec.ofNat 8 (leftBefore a - 1)
          dropped := if overwrites then true else a.dropped
          blockDone := if last then true else a.blockDone
          free := if last then next a.free else a.free
          full := if last ∧ a.isFilled = true then next a.full else a.full
          isFilled := if last then a.isFilled || decide (next a.free = a.full) else a.isFilled } ∧
      t.history = s.history ++ (if overwrites then [.drop .oldest] else []) ++
        [.capture a.free (BitVec.ofNat 8 (a.nSeq.toNat - leftBefore a))] ++
        (if last then [.blockDone a.free] else [])

/-- The two mutators keep the count of completed, unfreed blocks (10_state.md R53 (c)): a completed block adds
one, up to `nBlocks`, and freeing a block of a ring that is not empty takes one away (47_ring_buffer.md R283,
R284). -/
def Obligations.RingMutatorsCountBlocks : Prop :=
  ∀ (p : Params) (a : AdcState), a.free.toNat < a.nBlocks.toNat → a.full.toNat < a.nBlocks.toNat →
    (a.isFilled = true → a.free = a.full) →
    a.setFreeIsFull.fullBlocks = min (a.fullBlocks + 1) a.nBlocks.toNat ∧
    (a.ringEmpty = true ↔ a.fullBlocks = 0) ∧
    (a.isFilled = true ↔ a.fullBlocks = a.nBlocks.toNat) ∧
    (a.ringEmpty = false → (a.setFullIsFree p).fullBlocks + 1 = a.fullBlocks)

/-- The ring commands (47_ring_buffer.md R284 to R287, R291): with no task `REJECTED`; the getters answer -1
exactly on a full and on an empty ring (R293); ADC_SET_FULL_IS_FREE is `REJECTED` on an empty ring, and otherwise
advances `full`, both indices returning to 0 exactly when `EMPTY_RESET` holds, the ring became empty and no block
is in progress. -/
def Obligations.RingCommandResults : Prop :=
  ∀ s : State,
    (s.adc.st ≠ .constructed →
      Ends .adcGetFreeIndex .unusable s ∧
      Ends .adcGetFullIndex .unusable s ∧
      Ends .adcIsFilled .unusable s ∧
      Ends .adcSetFullIsFree .unusable s) ∧
    (s.adc.st = .constructed →
      let empty := s.adc.isFilled = false ∧ s.adc.free = s.adc.full
      let next := BitVec.ofNat 8 ((s.adc.full.toNat + 1) % s.adc.nBlocks.toNat)
      let resets := s.params.emptyReset = true ∧ s.adc.free = next ∧ s.adc.seqLeft = 0
      (s.adc.bound = false → Ends .adcGetFreeIndex .rejected s ∧ Ends .adcGetFullIndex .rejected s ∧
        Ends .adcIsFilled .rejected s ∧ Ends .adcSetFullIsFree .rejected s ∧ Ends .adcReadSample .rejected s) ∧
      (s.adc.bound = true →
        Completes .adcGetFreeIndex s
          { s with res0 := if s.adc.isFilled then 0xFFFFFFFF#32 else s.adc.free.setWidth 32 } ∧
        Completes .adcGetFullIndex s
          { s with res0 := if empty then 0xFFFFFFFF#32 else s.adc.full.setWidth 32 } ∧
        Completes .adcIsFilled s { s with res0 := if s.adc.isFilled then 1 else 0 } ∧
        (empty → Ends .adcSetFullIsFree .rejected s) ∧
        (¬empty → Completes .adcSetFullIsFree s
          { s with
            adc := { s.adc with
              free := if resets then 0 else s.adc.free
              full := if resets then 0 else next
              isFilled := false } })))

/-- ADC_READ_SAMPLE (47_ring_buffer.md R300): a block or offset out of range is `REJECTED`; a marked word with a
value is returned; a word whose mark is clear raises the fault mark, returns a free 16-bit value, zero-extended,
and still finishes `OK`. THE MODEL'S CHOICE: the free value is counted by `draws` (entry 8). -/
def Obligations.ReadSampleResult : Prop :=
  ∀ s : State, s.adc.st = .constructed → s.adc.bound = true →
    let words := s.adc.nSeq.toNat * (s.adc.nChan.toNat * s.adc.nRes.toNat)
    let i := s.arg0.toNat * words + s.arg1.toNat
    (s.adc.nBlocks.toNat ≤ s.arg0.toNat ∨ words ≤ s.arg1.toNat → Ends .adcReadSample .rejected s) ∧
    (s.arg0.toNat < s.adc.nBlocks.toNat → s.arg1.toNat < words → i < s.params.adcBufWords →
      (∀ v : Half, i ∈ s.written → Memory.readHalf s.sram i = some v →
        Completes .adcReadSample s { s with res0 := v.setWidth 32 }) ∧
      (i ∉ s.written → ∃ v : Half, Completes .adcReadSample s
        { s with
          res0 := v.setWidth 32
          draws := s.draws + 1
          faults := if FaultMark.unwrittenSample ∈ s.faults then s.faults
            else s.faults ++ [.unwrittenSample] }))

/-- ADC_GET_STATUS and ADC_CLEAR_STATUS (47_ring_buffer.md R301, R302): the status words place each field at its
bits, and a mask bit clears its flag and no other. -/
def Obligations.AdcStatusResults : Prop :=
  ∀ (s : State) (mask : BitVec 3),
    (s.adc.st ≠ .constructed →
      Ends .adcGetStatus .unusable s ∧
      Ends (.adcClearStatus mask) .unusable s) ∧
    (s.adc.st = .constructed →
      let a := s.adc
      (∃ r0 r1 : Word, Completes .adcGetStatus s { s with res0 := r0, res1 := r1 } ∧
        r0.toNat = a.seqState.bits.toNat + 4 * a.intFlag.toNat + 8 * a.bound.toNat + 16 * a.blockDone.toNat +
          32 * a.dropped.toNat + 64 * a.socOverrun.toNat + 256 * a.seqLeft.toNat ∧
        r1.toNat = a.free.toNat + 256 * a.full.toNat + 65536 * a.isFilled.toNat) ∧
      Completes (.adcClearStatus mask) s
        { s with
          adc := { a with
            blockDone := if mask.getLsbD 0 then false else a.blockDone
            dropped := if mask.getLsbD 1 then false else a.dropped
            socOverrun := if mask.getLsbD 2 then false else a.socOverrun } })

/-! ### Results the spec does not state -/

/-- THE MODEL'S CHOICE (entries 8, 9 and 11): where the spec gives a result no value, because it does not fit its
register or divides by zero, the command still finishes `OK` with a free value, and every other effect is as
stated elsewhere; a sample word outside the sample RAM stops the machine. No statement rests on the value. -/
def Obligations.UnstatedResultsAreFreeValues : Prop :=
  ∀ (s : State) (m : ModuleIndex),
    let x := s.pwmAt m
    let p := x.tbprd.toNat
    let words := s.adc.nSeq.toNat * (s.adc.nChan.toNat * s.adc.nRes.toNat)
    let i := s.arg0.toNat * words + s.arg1.toNat
    let unstated (t clk : Nat) := t ≠ 0 ∧ clk = 0 ∨ 2 ^ 32 ≤ (2 * (t * 1000000000) + clk) / (2 * clk)
    let free (c : Instr) := ∃ v : Word, Completes c s { s with res0 := v, draws := s.draws + 1 }
    (s.usable m = true →
      (unstated x.dbred.toNat x.tbclk.toNat → free (.dbGetRise m false)) ∧
      (unstated x.dbfed.toNat x.tbclk.toNat → free (.dbGetFall m false)) ∧
      (unstated x.tbphs.toNat x.tbclk.toNat → free (.phsGet m false)) ∧
      (unstated ((x.oshtwth.toNat + 1) * s.params.chpPrescale) s.sysclk.toNat → free (.chpGetPulse m false)) ∧
      (x.taskValid = true → x.mode = .updown → p = 0 → free (.pwmGetFreq m false)) ∧
      (∀ c : BitVec 4, x.taskValid = true → c.toNat < s.params.pwmChannels → c.toNat < x.taskN.toNat →
        x.mode ≠ .down → p = 0 → free (.pwmGetDuty m c false)) ∧
      (x.tbclk = 0 → ∃ v : Word, Completes (.pwmGetBounds m) s
        { s with res0 := 1, res1 := v, draws := s.draws + 1 }) ∧
      (x.taskValid = true → ∃ (v w : Word) (n : Nat), Completes (.pwmGetResolution m) s
        { s with res0 := v, res1 := w, draws := n } ∧
        (x.taskFreq ≠ 0 → x.tbclk.toNat * (if x.hrEn then x.hrScale.toNat else 1) < x.taskFreq.toNat → w = 0) ∧
        (x.taskFreq = 0 → w ≠ 0 → v = BitVec.ofNat 32 (Nat.log 2 w.toNat)))) ∧
    (s.adc.st = .constructed → s.adc.bound = true → s.arg0.toNat < s.adc.nBlocks.toNat → s.arg1.toNat < words →
      (i < s.params.adcBufWords → i ∈ s.written → Memory.readHalf s.sram i = none → ∃ v : Half,
        Completes .adcReadSample s { s with res0 := v.setWidth 32, draws := s.draws + 1 }) ∧
      (s.params.adcBufWords ≤ i → exec .adcReadSample s = .fault .sampleAddress))
end

