-- ==== Sys2Proof/Laws/Arith.lean ====
section
/-! SUPPORT. The laws of the arithmetic: rounding, the divider search, and that the default tables never give a
zero clock. -/

namespace Sys2Proof.Machine

/-! ### Division -/

theorem floorDiv_le (a b : Nat) : floorDiv a b ≤ a := Nat.div_le_self a b

/-- `ceil_div` against a bound (00_scope.md R9). -/
theorem ceilDiv_le_iff {a b c : Nat} (hb : 0 < b) : ceilDiv a b ≤ c ↔ a ≤ b * c := by
  rw [ceilDiv, floorDiv, Nat.div_le_iff_le_mul_add_pred hb]; omega

/-- The two sides of a rounded quotient (00_scope.md R9). -/
theorem roundDiv_bounds (a : Nat) {b : Nat} (hb : 0 < b) :
    2 * b * roundDiv a b ≤ 2 * a + b ∧ 2 * a + b < 2 * b * (roundDiv a b + 1) :=
  ⟨Nat.mul_div_le _ _, Nat.lt_mul_div_succ _ (by omega)⟩

/-- No ticks are no time, at every clock (42_deadband_toggle.md R174). -/
@[simp] theorem ticksToNs_zero (clk : Nat) : ticksToNs 0 clk = some 0 := by
  unfold ticksToNs roundDiv floorDiv
  split
  · rfl
  · rw [Nat.div_eq_of_lt (by omega)]

theorem nsToTicks_le (ns clk bits : Nat) : nsToTicks ns clk bits ≤ 2 ^ bits - 1 := Nat.min_le_right _ _

theorem chopperDutyCode_le (bounds : List Nat) (d : Nat) : chopperDutyCode bounds d ≤ bounds.length :=
  List.length_filter_le _ _

/-! ### The divider search (40_clock_divider.md R121) -/

/-- `x` comes before `y` in ascending (coarse, fine) index order. -/
abbrev DivResult.Before (x y : DivResult) : Prop := x.ci < y.ci ∨ x.ci = y.ci ∧ x.fi < y.fi

/-- What a search over candidates in index order finds: nothing exactly when every candidate is too fast; else a
candidate that is not too fast, no slower than any such candidate, and the first of its rate. -/
theorem foldl_divPick (tgt : Nat) (l : List DivResult) (hl : l.Pairwise DivResult.Before) :
    (l.foldl (divPick tgt) none = none ↔ ∀ x ∈ l, tgt < x.achieved) ∧
    ∀ r, l.foldl (divPick tgt) none = some r →
      r ∈ l ∧ r.achieved ≤ tgt ∧
      (∀ x ∈ l, x.achieved ≤ tgt → x.achieved ≤ r.achieved) ∧
      ∀ x ∈ l, x.Before r → x.achieved ≠ r.achieved := by
  induction l using List.reverseRecOn with
  | nil => simp
  | append_singleton l y ih =>
    obtain ⟨hl', -, hy⟩ := List.pairwise_append.mp hl
    replace hy : ∀ x ∈ l, x.Before y := fun x hx => hy x hx y (List.mem_singleton_self y)
    obtain ⟨ihn, ihs⟩ := ih hl'
    rw [List.foldl_append, List.foldl_cons, List.foldl_nil]
    have irr : ¬y.Before y := by simp [DivResult.Before]
    generalize l.foldl (divPick tgt) none = best at *
    by_cases hle : y.achieved ≤ tgt
    · cases best with
      | none =>
        have hall := ihn.mp rfl
        simp only [divPick, if_pos hle, reduceCtorEq, false_iff, Option.some.injEq, List.mem_append,
          List.mem_singleton]
        refine ⟨fun h => absurd (h y (.inr rfl)) (by omega), ?_⟩
        rintro r rfl
        refine ⟨.inr rfl, hle, ?_, ?_⟩
        · rintro x (hx | rfl) h
          · have := hall x hx; omega
          · exact le_rfl
        · rintro x (hx | rfl) hb
          · have := hall x hx; omega
          · exact absurd hb irr
      | some b =>
        obtain ⟨hbm, hbt, hbmax, hbfirst⟩ := ihs b rfl
        have hpick : divPick tgt (some b) y = if b.achieved < y.achieved then some y else some b := by
          simp only [divPick, if_pos hle]
        rw [hpick]
        refine ⟨⟨fun h => by split_ifs at h, fun h => ?_⟩, ?_⟩
        · have := h y (by simp); omega
        · intro r hr
          split_ifs at hr with hlt <;> injection hr with hr <;> subst hr
          · refine ⟨by simp, hle, ?_, ?_⟩
            · intro x hx h
              rcases List.mem_append.mp hx with hx | hx
              · exact (hbmax x hx h).trans hlt.le
              · rw [List.mem_singleton.mp hx]
            · intro x hx hb
              rcases List.mem_append.mp hx with hx | hx
              · by_cases h : x.achieved ≤ tgt
                · have := hbmax x hx h; omega
                · omega
              · rw [List.mem_singleton.mp hx] at hb; exact absurd hb irr
          · refine ⟨by simp [hbm], hbt, ?_, ?_⟩
            · intro x hx h
              rcases List.mem_append.mp hx with hx | hx
              · exact hbmax x hx h
              · rw [List.mem_singleton.mp hx]; omega
            · intro x hx hb
              rcases List.mem_append.mp hx with hx | hx
              · exact hbfirst x hx hb
              · rw [List.mem_singleton.mp hx] at hb
                have := hy b hbm
                simp only [DivResult.Before] at hb this
                omega
    · have hpick : divPick tgt best y = best := by simp only [divPick, if_neg hle]
      rw [hpick]
      constructor
      · rw [ihn]
        constructor
        · intro h x hx
          rcases List.mem_append.mp hx with hx | hx
          · exact h x hx
          · rw [List.mem_singleton.mp hx]; omega
        · exact fun h x hx => h x (List.mem_append_left _ hx)
      · intro r hr
        obtain ⟨hbm, hbt, hbmax, hbfirst⟩ := ihs r hr
        refine ⟨List.mem_append_left _ hbm, hbt, ?_, ?_⟩
        · intro x hx h
          rcases List.mem_append.mp hx with hx | hx
          · exact hbmax x hx h
          · rw [List.mem_singleton.mp hx] at h; omega
        · intro x hx hb
          rcases List.mem_append.mp hx with hx | hx
          · exact hbfirst x hx hb
          · rw [List.mem_singleton.mp hx]; omega

/-- The candidates are exactly the pairs of table entries, each with its rate. -/
theorem mem_divCandidates {src : Nat} {coarse fine : List Nat} {x : DivResult} :
    x ∈ divCandidates src coarse fine ↔
      ∃ c f, coarse[x.ci]? = some c ∧ fine[x.fi]? = some f ∧ x.achieved = src / (c * f) := by
  simp only [divCandidates, List.mem_flatMap, List.mem_map, Prod.exists, List.mem_zipIdx_iff_getElem?]
  constructor
  · rintro ⟨c, ci, hc, f, fi, hf, rfl⟩
    exact ⟨c, f, hc, hf, rfl⟩
  · rintro ⟨c, f, hc, hf, h⟩
    exact ⟨c, x.ci, hc, f, x.fi, hf, by cases x; simp only at h; simp [floorDiv, h]⟩

/-- The candidates stand in ascending (coarse, fine) index order. -/
theorem pairwise_divCandidates (src : Nat) (coarse fine : List Nat) :
    (divCandidates src coarse fine).Pairwise DivResult.Before := by
  have up : ∀ (l : List Nat) (n : Nat), (l.zipIdx n).Pairwise (fun a b => a.2 < b.2) := by
    intro l
    induction l with
    | nil => simp
    | cons a l ih =>
      intro n
      rw [List.zipIdx_cons, List.pairwise_cons]
      refine ⟨fun b hb => ?_, ih (n + 1)⟩
      have := List.le_snd_of_mem_zipIdx hb
      simp only at this ⊢
      omega
  rw [divCandidates, List.flatMap, List.pairwise_flatten]
  constructor
  · intro l hl
    obtain ⟨c, -, rfl⟩ := List.mem_map.mp hl
    rw [List.pairwise_map]
    exact (up fine 0).imp fun h => .inr ⟨rfl, h⟩
  · rw [List.pairwise_map]
    refine (up coarse 0).imp fun {a b} h x hx y hy => ?_
    obtain ⟨_, -, rfl⟩ := List.mem_map.mp hx
    obtain ⟨_, -, rfl⟩ := List.mem_map.mp hy
    exact .inl h

/-- A found rate is not above the target, nor above the source. -/
theorem divSearch_le {src tgt : Nat} {coarse fine : List Nat} {r : DivResult}
    (h : divSearch src tgt coarse fine = some r) : r.achieved ≤ tgt ∧ r.achieved ≤ src ∧ 1 ≤ src ∧ 1 ≤ tgt := by
  unfold divSearch at h
  split_ifs at h with hz
  obtain ⟨hm, ht, -, -⟩ := (foldl_divPick tgt _ (pairwise_divCandidates src coarse fine)).2 r h
  obtain ⟨c, f, -, -, hr⟩ := mem_divCandidates.mp hm
  exact ⟨ht, hr ▸ Nat.div_le_self _ _, by omega, by omega⟩

/-- The indices of a found rate are inside the tables. -/
theorem divSearch_index {src tgt : Nat} {coarse fine : List Nat} {r : DivResult}
    (h : divSearch src tgt coarse fine = some r) : r.ci < coarse.length ∧ r.fi < fine.length := by
  unfold divSearch at h
  split_ifs at h with hz
  obtain ⟨hm, -, -, -⟩ := (foldl_divPick tgt _ (pairwise_divCandidates src coarse fine)).2 r h
  obtain ⟨c, f, hc, hf, -⟩ := mem_divCandidates.mp hm
  exact ⟨(List.getElem?_eq_some_iff.mp hc).1, (List.getElem?_eq_some_iff.mp hf).1⟩

/-- A found rate is at least 1 when some pair of divisors gives a rate of at least 1 that is not above the
target. -/
theorem divSearch_pos {src tgt : Nat} {coarse fine : List Nat} {r : DivResult}
    (h : divSearch src tgt coarse fine = some r) {c f : Nat} (hc : c ∈ coarse) (hf : f ∈ fine)
    (h1 : 1 ≤ src / (c * f)) (ht : src / (c * f) ≤ tgt) : 1 ≤ r.achieved := by
  unfold divSearch at h
  split_ifs at h with hz
  obtain ⟨-, -, hmax, -⟩ := (foldl_divPick tgt _ (pairwise_divCandidates src coarse fine)).2 r h
  obtain ⟨i, hi⟩ := List.mem_iff_getElem?.mp hc
  obtain ⟨j, hj⟩ := List.mem_iff_getElem?.mp hf
  exact h1.trans (hmax ⟨src / (c * f), i, j⟩ (mem_divCandidates.mpr ⟨c, f, hi, hj, rfl⟩) ht)

/-- A found rate is at least 1 when no product of divisors is above the source. -/
theorem divSearch_pos_of_le {src tgt : Nat} {coarse fine : List Nat} {r : DivResult}
    (h : divSearch src tgt coarse fine = some r)
    (hp : ∀ c ∈ coarse, ∀ f ∈ fine, 0 < c * f ∧ c * f ≤ src) : 1 ≤ r.achieved := by
  unfold divSearch at h
  split_ifs at h with hz
  obtain ⟨hm, -, -, -⟩ := (foldl_divPick tgt _ (pairwise_divCandidates src coarse fine)).2 r h
  obtain ⟨c, f, hc, hf, hr⟩ := mem_divCandidates.mp hm
  have := hp c (List.mem_of_getElem? hc) f (List.mem_of_getElem? hf)
  rw [hr]
  exact Nat.div_pos this.2 this.1

/-- With the default tables no clock the divider returns is 0 Hz, so no later quotient divides by zero
(entry 9). -/
theorem default_divider_pos {src tgt : Nat} {r : DivResult} :
    (pwmDivide Params.default src tgt = some r → 1 ≤ r.achieved) ∧
    (adcDivide Params.default src tgt = some r → 1 ≤ r.achieved) := by
  have one : ∀ {a d b : Nat}, d ≤ a → a < 2 * d → 1 ≤ b → 1 ≤ a / d ∧ a / d ≤ b := by
    intro a d b h1 h2 hb
    have : a / d = 1 := Nat.div_eq_of_lt_le (by omega) (by omega)
    omega
  constructor <;> intro h <;> obtain ⟨-, -, hs, ht⟩ := divSearch_le h
  · have use : ∀ c ∈ Params.default.pwmCoarse, ∀ f ∈ Params.default.pwmFine,
        c * f ≤ src → src < 2 * (c * f) → 1 ≤ r.achieved := fun c hc f hf h1 h2 =>
      divSearch_pos h hc hf (one h1 h2 ht).1 (one h1 h2 ht).2
    rcases Nat.lt_or_ge src 1792 with hlt | hge
    · have := use 1 (by decide) 1 (by decide)
      have := use 2 (by decide) 1 (by decide)
      have := use 4 (by decide) 1 (by decide)
      have := use 8 (by decide) 1 (by decide)
      have := use 16 (by decide) 1 (by decide)
      have := use 32 (by decide) 1 (by decide)
      have := use 64 (by decide) 1 (by decide)
      have := use 128 (by decide) 1 (by decide)
      have := use 128 (by decide) 2 (by decide)
      have := use 128 (by decide) 4 (by decide)
      have := use 128 (by decide) 8 (by decide)
      omega
    · refine divSearch_pos_of_le h fun c hc f hf => ?_
      have : ∀ c ∈ Params.default.pwmCoarse, ∀ f ∈ Params.default.pwmFine, 0 < c * f ∧ c * f ≤ 1792 := by
        decide
      have := this c hc f hf
      omega
  · have use : ∀ c ∈ Params.default.adcCoarse, ∀ f ∈ Params.default.adcFine,
        c * f ≤ src → src < 2 * (c * f) → 1 ≤ r.achieved := fun c hc f hf h1 h2 =>
      divSearch_pos h hc hf (one h1 h2 ht).1 (one h1 h2 ht).2
    rcases Nat.lt_or_ge src 420 with hlt | hge
    · have := use 1 (by decide) 1 (by decide)
      have := use 2 (by decide) 1 (by decide)
      have := use 4 (by decide) 1 (by decide)
      have := use 8 (by decide) 1 (by decide)
      have := use 8 (by decide) 2 (by decide)
      have := use 8 (by decide) 4 (by decide)
      have := use 8 (by decide) 8 (by decide)
      have := use 8 (by decide) 16 (by decide)
      have := use 12 (by decide) 20 (by decide)
      omega
    · refine divSearch_pos_of_le h fun c hc f hf => ?_
      have : ∀ c ∈ Params.default.adcCoarse, ∀ f ∈ Params.default.adcFine, 0 < c * f ∧ c * f ≤ 420 := by
        decide
      have := this c hc f hf
      omega

end Sys2Proof.Machine
end

