-- ==== Sys2Proof/Laws/Operands.lean ====
section
/-! SUPPORT. The laws of packed words, of the Toggle bits and of the task check. -/

namespace Sys2Proof.Machine

/-! ### Packed words -/

/-- A concatenation is the upper part times the width of the lower part, plus the lower part. -/
theorem toNat_append {n m : Nat} (x : BitVec n) (y : BitVec m) :
    (x ++ y).toNat = x.toNat * 2 ^ m + y.toNat := by
  rw [BitVec.toNat_append, ← Nat.shiftLeft_add_eq_or_of_lt y.isLt, Nat.shiftLeft_eq]

theorem toNat_ofBool (b : Bool) : (BitVec.ofBool b).toNat = b.toNat := by cases b <;> rfl

/-- The Boolean result word is 1 or 0 (00_scope.md R12). -/
theorem boolWord_eq (b : Bool) : boolWord b = if b then 1#32 else 0#32 := by cases b <;> rfl

/-! ### `DBCTL` bits -/

theorem getLsbD_setDbctlBit (d : BitVec 6) (i j : Nat) (b : Bool) (hi : i < 6) :
    (setDbctlBit d i b).getLsbD j = if j = i then b else d.getLsbD j := by
  cases b <;> simp only [setDbctlBit, dbctlBit] <;> by_cases h : j = i
  · subst h; simp
  · have : decide (i = j) = false := by simpa using Ne.symm h
    simp only [Bool.false_eq_true, if_false, BitVec.getLsbD_and, BitVec.getLsbD_not, BitVec.getLsbD_twoPow, this,
      h]
    by_cases hj : j < 6
    · simp [hj]
    · simp [hj, BitVec.getLsbD_of_ge d j (by omega)]
  · subst h; simp [hi]
  · have : decide (i = j) = false := by simpa using Ne.symm h
    simp [BitVec.getLsbD_twoPow, this, h]

theorem setDbctlBit_self (d : BitVec 6) (i : Nat) (hi : i < 6) : setDbctlBit d i (d.getLsbD i) = d := by
  apply BitVec.eq_of_getLsbD_eq
  intro j _
  rw [getLsbD_setDbctlBit _ _ _ _ hi]
  split_ifs with h
  · rw [h]
  · rfl

theorem setDbctlBit_setDbctlBit (d : BitVec 6) (i : Nat) (b c : Bool) (hi : i < 6) :
    setDbctlBit (setDbctlBit d i b) i c = setDbctlBit d i c := by
  apply BitVec.eq_of_getLsbD_eq
  intro j _
  simp only [getLsbD_setDbctlBit _ _ _ _ hi]
  split_ifs <;> rfl

/-! ### Toggles (42_deadband_toggle.md R177) -/

theorem PwmModule.setToggle_setToggle (x : PwmModule) (t : Toggle) (b c : Bool) :
    (x.setToggle t b).setToggle t c = x.setToggle t c := by
  cases t <;> simp [PwmModule.setToggle, setDbctlBit_setDbctlBit]

/-- Setting a Toggle keeps every field but `DBCTL`, `CHPEN` and `PHSEN`. -/
theorem PwmModule.setToggle_eq (x : PwmModule) (t : Toggle) (b : Bool) :
    x.setToggle t b =
      { x with
        dbctl := (x.setToggle t b).dbctl
        chpEn := (x.setToggle t b).chpEn
        phsEn := (x.setToggle t b).phsEn } := by
  cases t <;> rfl

/-! ### The task check -/

/-- The task check as a conjunction (41_pwm_timebase.md R145). -/
theorem PwmModule.isTask_iff {p : Params} {x : PwmModule} {n : BitVec 4} {f : Word} {d0 d1 : Half} :
    x.isTask p n f d0 d1 = true ↔
      n.toNat ≤ p.pwmChannels ∧
      minFrequency p.ctrBits x.mode x.tbclk.toNat ≤ f.toNat ∧ f.toNat ≤ maxFrequency x.tbclk.toNat ∧
      (0 < n.toNat → d0.toNat ≤ 10000) ∧ (1 < n.toNat → d1.toNat ≤ 10000) :=
  decide_eq_true_iff

/-- The ADC task check as a conjunction (46_adc_sequencer.md R259). -/
theorem adcTaskValid_iff {p : Params} {w : Word} :
    adcTaskValid p w = true ↔
      taskReserved w = 0#10 ∧
      1 ≤ (taskBlocks w).toNat ∧ 1 ≤ (taskSequences w).toNat ∧
      1 ≤ (taskChannels w).toNat ∧ (taskChannels w).toNat ≤ p.adcMaxChannels ∧
      (taskResults w).toNat = p.slotResults ∧
      (taskBlocks w).toNat * (taskSequences w).toNat * (taskChannels w).toNat * (taskResults w).toNat
        ≤ p.adcBufWords :=
  decide_eq_true_iff

end Sys2Proof.Machine
end

