-- ==== Sys2Proof/Laws/Encoding.lean ====
section
/-! SUPPORT. The four fields of a command word, read back from a word put together from them
(30_encoding.md R90). -/

namespace Sys2Proof

open Machine (toNat_append)

theorem toNat_commandWord (op : BitVec 8) (m : ModuleIndex) (s : BitVec 4) (i : BitVec 16) :
    (commandWord op m s i).toNat = op.toNat * 2 ^ 24 + m.toNat * 2 ^ 20 + s.toNat * 2 ^ 16 + i.toNat := by
  simp only [commandWord, toNat_append]
  omega

@[simp] theorem opField_commandWord (op : BitVec 8) (m : ModuleIndex) (s : BitVec 4) (i : BitVec 16) :
    opField (commandWord op m s i) = op := by
  have := op.isLt; have := m.isLt; have := s.isLt; have := i.isLt
  apply BitVec.eq_of_toNat_eq
  rw [opField, BitVec.extractLsb'_toNat, toNat_commandWord, Nat.shiftRight_eq_div_pow]
  omega

@[simp] theorem mField_commandWord (op : BitVec 8) (m : ModuleIndex) (s : BitVec 4) (i : BitVec 16) :
    mField (commandWord op m s i) = m := by
  have := op.isLt; have := m.isLt; have := s.isLt; have := i.isLt
  apply BitVec.eq_of_toNat_eq
  rw [mField, BitVec.extractLsb'_toNat, toNat_commandWord, Nat.shiftRight_eq_div_pow]
  omega

@[simp] theorem sField_commandWord (op : BitVec 8) (m : ModuleIndex) (s : BitVec 4) (i : BitVec 16) :
    sField (commandWord op m s i) = s := by
  have := op.isLt; have := m.isLt; have := s.isLt; have := i.isLt
  apply BitVec.eq_of_toNat_eq
  rw [sField, BitVec.extractLsb'_toNat, toNat_commandWord, Nat.shiftRight_eq_div_pow]
  omega

@[simp] theorem iField_commandWord (op : BitVec 8) (m : ModuleIndex) (s : BitVec 4) (i : BitVec 16) :
    iField (commandWord op m s i) = i := by
  have := op.isLt; have := m.isLt; have := s.isLt; have := i.isLt
  apply BitVec.eq_of_toNat_eq
  rw [iField, BitVec.extractLsb'_toNat, toNat_commandWord, Nat.shiftRight_eq_div_pow]
  omega

/-- A word is the word of its four fields. -/
theorem commandWord_fields (w : Word) : commandWord (opField w) (mField w) (sField w) (iField w) = w := by
  apply BitVec.eq_of_toNat_eq
  rw [toNat_commandWord]
  simp only [opField, mField, sField, iField, BitVec.extractLsb'_toNat, Nat.shiftRight_eq_div_pow]
  have := w.isLt
  omega

end Sys2Proof
end

