-- ==== Sys2Proof/Laws/Memory.lean ====
section
/-! SUPPORT. The laws of the sample RAM and its written marks: a read after a write, what a write leaves alone,
and that every operation keeps the canonical form. -/

namespace Sys2Proof.Machine

/-! ### Bytes -/

@[simp] theorem Memory.readByte_writeByte_same (mem : List Host.Cell) (a : Nat) (b : Byte) :
    Memory.readByte (Memory.writeByte mem a b) a = some b := by
  induction mem with
  | nil => simp [Memory.writeByte, Memory.readByte]
  | cons c cs ih =>
    unfold Memory.writeByte
    split_ifs with h1 h2
    · simp [Memory.readByte]
    · simp [Memory.readByte]
    · simp [Memory.readByte, Ne.symm h2, ih]

theorem Memory.readByte_writeByte_other (mem : List Host.Cell) (a a' : Nat) (b : Byte) (h : a' ≠ a) :
    Memory.readByte (Memory.writeByte mem a b) a' = Memory.readByte mem a' := by
  induction mem with
  | nil => simp [Memory.writeByte, Memory.readByte, Ne.symm h]
  | cons c cs ih =>
    unfold Memory.writeByte
    split_ifs with h1 h2
    · simp [Memory.readByte, Ne.symm h]
    · subst h2; simp [Memory.readByte, Ne.symm h]
    · simp [Memory.readByte, ih]

theorem Memory.mem_writeByte {mem : List Host.Cell} {a : Nat} {b : Byte} {c : Host.Cell}
    (h : c ∈ Memory.writeByte mem a b) : c = (a, b) ∨ c ∈ mem := by
  induction mem with
  | nil => simpa [Memory.writeByte] using h
  | cons d ds ih =>
    unfold Memory.writeByte at h
    split_ifs at h with h1 h2
    · simpa using h
    · simp only [List.mem_cons] at h ⊢; tauto
    · simp only [List.mem_cons] at h ⊢
      rcases h with h | h
      · exact .inr (.inl h)
      · rcases ih h with h | h
        · exact .inl h
        · exact .inr (.inr h)

/-! ### The canonical form -/

theorem Memory.risesAbove_writeByte {mem : List Host.Cell} {k a : Nat} {b : Byte}
    (h : Memory.risesAbove k mem = true) (hk : k < a) :
    Memory.risesAbove k (Memory.writeByte mem a b) = true := by
  induction mem generalizing k with
  | nil => simp [Memory.writeByte, Memory.risesAbove, hk]
  | cons c cs ih =>
    simp only [Memory.risesAbove, Bool.and_eq_true, decide_eq_true_eq] at h
    unfold Memory.writeByte
    split_ifs with h1 h2
    · simp [Memory.risesAbove, hk, h1, h.2]
    · subst h2; simp [Memory.risesAbove, h.1, h.2]
    · simp [Memory.risesAbove, h.1, ih h.2 (by omega)]

theorem Memory.wf_writeByte {mem : List Host.Cell} {a : Nat} {b : Byte} (h : Memory.wf mem = true) :
    Memory.wf (Memory.writeByte mem a b) = true := by
  cases mem with
  | nil => simp [Memory.writeByte, Memory.wf, Memory.risesAbove]
  | cons c cs =>
    unfold Memory.writeByte
    split_ifs with h1 h2
    · simpa [Memory.wf, Memory.risesAbove, h1] using h
    · subst h2; simpa [Memory.wf] using h
    · exact Memory.risesAbove_writeByte h (by omega)

theorem Memory.wf_writeHalf {mem : List Host.Cell} {i : Nat} {v : Half} (h : Memory.wf mem = true) :
    Memory.wf (Memory.writeHalf mem i v) = true :=
  Memory.wf_writeByte (Memory.wf_writeByte h)

/-- A memory whose addresses rise above `k` has no value at or below `k`. -/
theorem Memory.readByte_of_risesAbove {mem : List Host.Cell} {k a : Nat}
    (h : Memory.risesAbove k mem = true) (ha : a ≤ k) : Memory.readByte mem a = none := by
  induction mem generalizing k with
  | nil => rfl
  | cons c cs ih =>
    simp only [Memory.risesAbove, Bool.and_eq_true, decide_eq_true_eq] at h
    simp [Memory.readByte, show c.1 ≠ a by omega, ih h.2 (by omega)]

theorem Memory.eq_of_risesAbove {mem mem' : List Host.Cell} {k : Nat}
    (h : Memory.risesAbove k mem = true) (h' : Memory.risesAbove k mem' = true)
    (e : ∀ a, Memory.readByte mem a = Memory.readByte mem' a) : mem = mem' := by
  induction mem generalizing mem' k with
  | nil =>
    cases mem' with
    | nil => rfl
    | cons d ds => simpa [Memory.readByte] using e d.1
  | cons c cs ih =>
    cases mem' with
    | nil => simpa [Memory.readByte] using e c.1
    | cons d ds =>
      simp only [Memory.risesAbove, Bool.and_eq_true, decide_eq_true_eq] at h h'
      have key : c.1 = d.1 := by
        rcases Nat.lt_trichotomy c.1 d.1 with hlt | heq | hlt
        · have := e c.1
          simp [Memory.readByte, show d.1 ≠ c.1 by omega,
            Memory.readByte_of_risesAbove h'.2 hlt.le] at this
        · exact heq
        · have := e d.1
          simp [Memory.readByte, show c.1 ≠ d.1 by omega,
            Memory.readByte_of_risesAbove h.2 hlt.le] at this
      have hv : c.2 = d.2 := by simpa [Memory.readByte, key] using e c.1
      rw [Prod.ext key hv]
      congr 1
      refine ih h.2 (key ▸ h'.2) fun a => ?_
      by_cases ha : a ≤ c.1
      · rw [Memory.readByte_of_risesAbove h.2 ha, Memory.readByte_of_risesAbove h'.2 (key ▸ ha)]
      · have := e a
        simpa [Memory.readByte, show c.1 ≠ a by omega, show d.1 ≠ a by omega] using this

/-- Canonical memories with the same bytes are equal. -/
theorem Memory.eq_of_wf {mem mem' : List Host.Cell} (h : Memory.wf mem = true)
    (h' : Memory.wf mem' = true) (e : ∀ a, Memory.readByte mem a = Memory.readByte mem' a) :
    mem = mem' := by
  cases mem with
  | nil =>
    cases mem' with
    | nil => rfl
    | cons d ds => simpa [Memory.readByte] using e d.1
  | cons c cs =>
    cases mem' with
    | nil => simpa [Memory.readByte] using e c.1
    | cons d ds =>
      have key : c.1 = d.1 := by
        rcases Nat.lt_trichotomy c.1 d.1 with hlt | heq | hlt
        · have := e c.1
          simp [Memory.readByte, show d.1 ≠ c.1 by omega,
            Memory.readByte_of_risesAbove h' hlt.le] at this
        · exact heq
        · have := e d.1
          simp [Memory.readByte, show c.1 ≠ d.1 by omega,
            Memory.readByte_of_risesAbove h hlt.le] at this
      have hv : c.2 = d.2 := by simpa [Memory.readByte, key] using e c.1
      rw [Prod.ext key hv]
      congr 1
      refine Memory.eq_of_risesAbove h (key ▸ h') fun a => ?_
      by_cases ha : a ≤ c.1
      · rw [Memory.readByte_of_risesAbove h ha, Memory.readByte_of_risesAbove h' (key ▸ ha)]
      · have := e a
        simpa [Memory.readByte, show c.1 ≠ a by omega, show d.1 ≠ a by omega] using this

/-! ### Words -/

theorem Memory.mem_writeHalf {mem : List Host.Cell} {i : Nat} {v : Half} {c : Host.Cell}
    (h : c ∈ Memory.writeHalf mem i v) : c.1 = 2 * i ∨ c.1 = 2 * i + 1 ∨ c ∈ mem := by
  rcases Memory.mem_writeByte h with rfl | h
  · exact .inr (.inl rfl)
  · rcases Memory.mem_writeByte h with rfl | h
    · exact .inl rfl
    · exact .inr (.inr h)

theorem Memory.readByte_writeHalf_other (mem : List Host.Cell) (i a : Nat) (v : Half)
    (h : a < 2 * i ∨ 2 * i + 1 < a) :
    Memory.readByte (Memory.writeHalf mem i v) a = Memory.readByte mem a := by
  rw [Memory.writeHalf, Memory.readByte_writeByte_other _ _ _ _ (by omega),
    Memory.readByte_writeByte_other _ _ _ _ (by omega)]

@[simp] theorem Memory.readHalf_writeHalf_same (mem : List Host.Cell) (i : Nat) (v : Half) :
    Memory.readHalf (Memory.writeHalf mem i v) i = some v := by
  have h1 : Memory.readByte (Memory.writeHalf mem i v) (2 * i) = some (v.extractLsb' 0 8) := by
    rw [Memory.writeHalf, Memory.readByte_writeByte_other _ _ _ _ (by omega),
      Memory.readByte_writeByte_same]
  have h2 : Memory.readByte (Memory.writeHalf mem i v) (2 * i + 1) = some (v.extractLsb' 8 8) := by
    rw [Memory.writeHalf, Memory.readByte_writeByte_same]
  simp only [Memory.readHalf, h1, h2, Option.some.injEq]
  exact BitVec.extractLsb'_append_extractLsb'_eq_extractLsb' rfl |>.trans (BitVec.extractLsb'_eq_self)

theorem Memory.readHalf_writeHalf_other (mem : List Host.Cell) (i j : Nat) (v : Half) (h : j ≠ i) :
    Memory.readHalf (Memory.writeHalf mem i v) j = Memory.readHalf mem j := by
  simp only [Memory.readHalf, Memory.readByte_writeHalf_other mem i (2 * j) v (by omega),
    Memory.readByte_writeHalf_other mem i (2 * j + 1) v (by omega)]

/-! ### Written marks -/

@[simp] theorem Marks.mem_set {marks : List Nat} {i j : Nat} : j ∈ Marks.set marks i ↔ j = i ∨ j ∈ marks := by
  induction marks with
  | nil => simp [Marks.set]
  | cons k ks ih =>
    unfold Marks.set
    split_ifs with h1 h2
    · simp
    · subst h2; simp
    · simp only [List.mem_cons, ih]; tauto

theorem Marks.pairwise_set {marks : List Nat} {i : Nat} (h : marks.Pairwise (· < ·)) :
    (Marks.set marks i).Pairwise (· < ·) := by
  induction marks with
  | nil => simp [Marks.set]
  | cons k ks ih =>
    obtain ⟨hk, hks⟩ := List.pairwise_cons.mp h
    unfold Marks.set
    split_ifs with h1 h2
    · refine List.pairwise_cons.mpr ⟨fun j hj => ?_, h⟩
      rcases List.mem_cons.mp hj with rfl | hj
      · exact h1
      · exact lt_trans h1 (hk j hj)
    · exact h
    · refine List.pairwise_cons.mpr ⟨fun j hj => ?_, ih hks⟩
      rcases Marks.mem_set.mp hj with rfl | hj
      · omega
      · exact hk j hj

/-! ### Consecutive words -/

/-- What `SampleWrite` of consecutive words does: only the sample RAM and its marks change. -/
theorem State.sampleWrites_eq (s : State) (i : Nat) (vs : List Half) :
    s.sampleWrites i vs =
      { s with sram := (s.sampleWrites i vs).sram, written := (s.sampleWrites i vs).written } := by
  induction vs generalizing s i with
  | nil => rfl
  | cons v vs ih =>
    show (s.sampleWrite i v).sampleWrites (i + 1) vs = _
    rw [ih]; rfl

theorem State.readByte_sampleWrites_other (s : State) (i a : Nat) (vs : List Half)
    (h : a < 2 * i ∨ 2 * (i + vs.length) ≤ a) :
    Memory.readByte (s.sampleWrites i vs).sram a = Memory.readByte s.sram a := by
  induction vs generalizing s i with
  | nil => rfl
  | cons v vs ih =>
    simp only [List.length_cons] at h
    show Memory.readByte ((s.sampleWrite i v).sampleWrites (i + 1) vs).sram a = _
    rw [ih _ _ (by omega)]
    exact Memory.readByte_writeHalf_other _ _ _ _ (by omega)

theorem State.readHalf_sampleWrites_other (s : State) (i j : Nat) (vs : List Half)
    (h : j < i ∨ i + vs.length ≤ j) :
    Memory.readHalf (s.sampleWrites i vs).sram j = Memory.readHalf s.sram j := by
  simp only [Memory.readHalf, State.readByte_sampleWrites_other s i (2 * j) vs (by omega),
    State.readByte_sampleWrites_other s i (2 * j + 1) vs (by omega)]

theorem State.readHalf_sampleWrites_same (s : State) (i k : Nat) (vs : List Half) (h : k < vs.length) :
    Memory.readHalf (s.sampleWrites i vs).sram (i + k) = some vs[k] := by
  induction vs generalizing s i k with
  | nil => exact absurd h (Nat.not_lt_zero _)
  | cons v vs ih =>
    show Memory.readHalf ((s.sampleWrite i v).sampleWrites (i + 1) vs).sram (i + k) = _
    cases k with
    | zero =>
      rw [State.readHalf_sampleWrites_other _ _ _ _ (by omega)]
      exact Memory.readHalf_writeHalf_same _ _ _
    | succ k =>
      have := ih (s.sampleWrite i v) (i + 1) k (by simpa using h)
      rwa [show i + 1 + k = i + (k + 1) by omega] at this

theorem State.mem_written_sampleWrites (s : State) (i j : Nat) (vs : List Half) :
    j ∈ (s.sampleWrites i vs).written ↔ (i ≤ j ∧ j < i + vs.length) ∨ j ∈ s.written := by
  induction vs generalizing s i with
  | nil => simp [State.sampleWrites]
  | cons v vs ih =>
    show j ∈ ((s.sampleWrite i v).sampleWrites (i + 1) vs).written ↔ _
    rw [ih, List.length_cons]
    show _ ∨ j ∈ Marks.set s.written i ↔ _
    rw [Marks.mem_set]
    constructor
    · rintro (h | rfl | h)
      · exact .inl (by omega)
      · exact .inl (by omega)
      · exact .inr h
    · rintro (h | h)
      · by_cases hj : j = i
        · exact .inr (.inl hj)
        · exact .inl (by omega)
      · exact .inr (.inr h)

theorem State.wf_sampleWrites (s : State) (i : Nat) (vs : List Half) (h : Memory.wf s.sram = true) :
    Memory.wf (s.sampleWrites i vs).sram = true := by
  induction vs generalizing s i with
  | nil => exact h
  | cons v vs ih => exact ih _ _ (Memory.wf_writeHalf h)

theorem State.pairwise_sampleWrites (s : State) (i : Nat) (vs : List Half)
    (h : s.written.Pairwise (· < ·)) : (s.sampleWrites i vs).written.Pairwise (· < ·) := by
  induction vs generalizing s i with
  | nil => exact h
  | cons v vs ih => exact ih _ _ (Marks.pairwise_set h)

theorem State.mem_sram_sampleWrites (s : State) (i : Nat) (vs : List Half) (c : Host.Cell)
    (h : c ∈ (s.sampleWrites i vs).sram) : (2 * i ≤ c.1 ∧ c.1 < 2 * (i + vs.length)) ∨ c ∈ s.sram := by
  induction vs generalizing s i with
  | nil => exact .inr h
  | cons v vs ih =>
    rw [List.length_cons]
    rcases ih (s.sampleWrite i v) (i + 1) h with h | h
    · exact .inl (by omega)
    · rcases Memory.mem_writeHalf h with h | h | h
      · exact .inl (by omega)
      · exact .inl (by omega)
      · exact .inr h

/-- The sample RAM of a block that has just been reset is canonical. -/
theorem State.wf_reset : Memory.wf State.reset.sram = true := by decide

end Sys2Proof.Machine
end

