-- ==== Sys2Proof/Laws/State.lean ====
section
/-! SUPPORT. What each named update of the state does to each field, so that no later proof unfolds a record
update. -/

namespace Sys2Proof.Machine

variable (s : State)

/-! ### setRes0 -/

@[simp] theorem State.setRes0_arg0 (v : Word) : (s.setRes0 v).arg0 = s.arg0 := rfl
@[simp] theorem State.setRes0_arg1 (v : Word) : (s.setRes0 v).arg1 = s.arg1 := rfl
@[simp] theorem State.setRes0_arg2 (v : Word) : (s.setRes0 v).arg2 = s.arg2 := rfl
@[simp] theorem State.setRes0_arg3 (v : Word) : (s.setRes0 v).arg3 = s.arg3 := rfl
@[simp] theorem State.setRes0_res0 (v : Word) : (s.setRes0 v).res0 = v := rfl
@[simp] theorem State.setRes0_res1 (v : Word) : (s.setRes0 v).res1 = s.res1 := rfl
@[simp] theorem State.setRes0_statusCode (v : Word) : (s.setRes0 v).statusCode = s.statusCode := rfl
@[simp] theorem State.setRes0_statusOp (v : Word) : (s.setRes0 v).statusOp = s.statusOp := rfl
@[simp] theorem State.setRes0_drvReady (v : Word) : (s.setRes0 v).drvReady = s.drvReady := rfl
@[simp] theorem State.setRes0_sysclk (v : Word) : (s.setRes0 v).sysclk = s.sysclk := rfl
@[simp] theorem State.setRes0_pwm (v : Word) : (s.setRes0 v).pwm = s.pwm := rfl
@[simp] theorem State.setRes0_adc (v : Word) : (s.setRes0 v).adc = s.adc := rfl
@[simp] theorem State.setRes0_sram (v : Word) : (s.setRes0 v).sram = s.sram := rfl
@[simp] theorem State.setRes0_written (v : Word) : (s.setRes0 v).written = s.written := rfl
@[simp] theorem State.setRes0_history (v : Word) : (s.setRes0 v).history = s.history := rfl
@[simp] theorem State.setRes0_faults (v : Word) : (s.setRes0 v).faults = s.faults := rfl
@[simp] theorem State.setRes0_params (v : Word) : (s.setRes0 v).params = s.params := rfl
@[simp] theorem State.setRes0_inputs (v : Word) : (s.setRes0 v).inputs = s.inputs := rfl
@[simp] theorem State.setRes0_busRead (v : Word) : (s.setRes0 v).busRead = s.busRead := rfl
@[simp] theorem State.setRes0_draws (v : Word) : (s.setRes0 v).draws = s.draws := rfl

/-! ### setRes1 -/

@[simp] theorem State.setRes1_arg0 (v : Word) : (s.setRes1 v).arg0 = s.arg0 := rfl
@[simp] theorem State.setRes1_arg1 (v : Word) : (s.setRes1 v).arg1 = s.arg1 := rfl
@[simp] theorem State.setRes1_arg2 (v : Word) : (s.setRes1 v).arg2 = s.arg2 := rfl
@[simp] theorem State.setRes1_arg3 (v : Word) : (s.setRes1 v).arg3 = s.arg3 := rfl
@[simp] theorem State.setRes1_res0 (v : Word) : (s.setRes1 v).res0 = s.res0 := rfl
@[simp] theorem State.setRes1_res1 (v : Word) : (s.setRes1 v).res1 = v := rfl
@[simp] theorem State.setRes1_statusCode (v : Word) : (s.setRes1 v).statusCode = s.statusCode := rfl
@[simp] theorem State.setRes1_statusOp (v : Word) : (s.setRes1 v).statusOp = s.statusOp := rfl
@[simp] theorem State.setRes1_drvReady (v : Word) : (s.setRes1 v).drvReady = s.drvReady := rfl
@[simp] theorem State.setRes1_sysclk (v : Word) : (s.setRes1 v).sysclk = s.sysclk := rfl
@[simp] theorem State.setRes1_pwm (v : Word) : (s.setRes1 v).pwm = s.pwm := rfl
@[simp] theorem State.setRes1_adc (v : Word) : (s.setRes1 v).adc = s.adc := rfl
@[simp] theorem State.setRes1_sram (v : Word) : (s.setRes1 v).sram = s.sram := rfl
@[simp] theorem State.setRes1_written (v : Word) : (s.setRes1 v).written = s.written := rfl
@[simp] theorem State.setRes1_history (v : Word) : (s.setRes1 v).history = s.history := rfl
@[simp] theorem State.setRes1_faults (v : Word) : (s.setRes1 v).faults = s.faults := rfl
@[simp] theorem State.setRes1_params (v : Word) : (s.setRes1 v).params = s.params := rfl
@[simp] theorem State.setRes1_inputs (v : Word) : (s.setRes1 v).inputs = s.inputs := rfl
@[simp] theorem State.setRes1_busRead (v : Word) : (s.setRes1 v).busRead = s.busRead := rfl
@[simp] theorem State.setRes1_draws (v : Word) : (s.setRes1 v).draws = s.draws := rfl

/-! ### record -/

@[simp] theorem State.record_arg0 (e : Event) : (s.record e).arg0 = s.arg0 := rfl
@[simp] theorem State.record_arg1 (e : Event) : (s.record e).arg1 = s.arg1 := rfl
@[simp] theorem State.record_arg2 (e : Event) : (s.record e).arg2 = s.arg2 := rfl
@[simp] theorem State.record_arg3 (e : Event) : (s.record e).arg3 = s.arg3 := rfl
@[simp] theorem State.record_res0 (e : Event) : (s.record e).res0 = s.res0 := rfl
@[simp] theorem State.record_res1 (e : Event) : (s.record e).res1 = s.res1 := rfl
@[simp] theorem State.record_statusCode (e : Event) : (s.record e).statusCode = s.statusCode := rfl
@[simp] theorem State.record_statusOp (e : Event) : (s.record e).statusOp = s.statusOp := rfl
@[simp] theorem State.record_drvReady (e : Event) : (s.record e).drvReady = s.drvReady := rfl
@[simp] theorem State.record_sysclk (e : Event) : (s.record e).sysclk = s.sysclk := rfl
@[simp] theorem State.record_pwm (e : Event) : (s.record e).pwm = s.pwm := rfl
@[simp] theorem State.record_adc (e : Event) : (s.record e).adc = s.adc := rfl
@[simp] theorem State.record_sram (e : Event) : (s.record e).sram = s.sram := rfl
@[simp] theorem State.record_written (e : Event) : (s.record e).written = s.written := rfl
@[simp] theorem State.record_history (e : Event) : (s.record e).history = s.history ++ [e] := rfl
@[simp] theorem State.record_faults (e : Event) : (s.record e).faults = s.faults := rfl
@[simp] theorem State.record_params (e : Event) : (s.record e).params = s.params := rfl
@[simp] theorem State.record_inputs (e : Event) : (s.record e).inputs = s.inputs := rfl
@[simp] theorem State.record_busRead (e : Event) : (s.record e).busRead = s.busRead := rfl
@[simp] theorem State.record_draws (e : Event) : (s.record e).draws = s.draws := rfl

/-! ### recordAll -/

@[simp] theorem State.recordAll_arg0 (es : List Event) : (s.recordAll es).arg0 = s.arg0 := rfl
@[simp] theorem State.recordAll_arg1 (es : List Event) : (s.recordAll es).arg1 = s.arg1 := rfl
@[simp] theorem State.recordAll_arg2 (es : List Event) : (s.recordAll es).arg2 = s.arg2 := rfl
@[simp] theorem State.recordAll_arg3 (es : List Event) : (s.recordAll es).arg3 = s.arg3 := rfl
@[simp] theorem State.recordAll_res0 (es : List Event) : (s.recordAll es).res0 = s.res0 := rfl
@[simp] theorem State.recordAll_res1 (es : List Event) : (s.recordAll es).res1 = s.res1 := rfl
@[simp] theorem State.recordAll_statusCode (es : List Event) : (s.recordAll es).statusCode = s.statusCode := rfl
@[simp] theorem State.recordAll_statusOp (es : List Event) : (s.recordAll es).statusOp = s.statusOp := rfl
@[simp] theorem State.recordAll_drvReady (es : List Event) : (s.recordAll es).drvReady = s.drvReady := rfl
@[simp] theorem State.recordAll_sysclk (es : List Event) : (s.recordAll es).sysclk = s.sysclk := rfl
@[simp] theorem State.recordAll_pwm (es : List Event) : (s.recordAll es).pwm = s.pwm := rfl
@[simp] theorem State.recordAll_adc (es : List Event) : (s.recordAll es).adc = s.adc := rfl
@[simp] theorem State.recordAll_sram (es : List Event) : (s.recordAll es).sram = s.sram := rfl
@[simp] theorem State.recordAll_written (es : List Event) : (s.recordAll es).written = s.written := rfl
@[simp] theorem State.recordAll_history (es : List Event) : (s.recordAll es).history = s.history ++ es := rfl
@[simp] theorem State.recordAll_faults (es : List Event) : (s.recordAll es).faults = s.faults := rfl
@[simp] theorem State.recordAll_params (es : List Event) : (s.recordAll es).params = s.params := rfl
@[simp] theorem State.recordAll_inputs (es : List Event) : (s.recordAll es).inputs = s.inputs := rfl
@[simp] theorem State.recordAll_busRead (es : List Event) : (s.recordAll es).busRead = s.busRead := rfl
@[simp] theorem State.recordAll_draws (es : List Event) : (s.recordAll es).draws = s.draws := rfl

/-! ### setPwm -/

@[simp] theorem State.setPwm_arg0 (m : ModuleIndex) (x : PwmModule) : (s.setPwm m x).arg0 = s.arg0 := rfl
@[simp] theorem State.setPwm_arg1 (m : ModuleIndex) (x : PwmModule) : (s.setPwm m x).arg1 = s.arg1 := rfl
@[simp] theorem State.setPwm_arg2 (m : ModuleIndex) (x : PwmModule) : (s.setPwm m x).arg2 = s.arg2 := rfl
@[simp] theorem State.setPwm_arg3 (m : ModuleIndex) (x : PwmModule) : (s.setPwm m x).arg3 = s.arg3 := rfl
@[simp] theorem State.setPwm_res0 (m : ModuleIndex) (x : PwmModule) : (s.setPwm m x).res0 = s.res0 := rfl
@[simp] theorem State.setPwm_res1 (m : ModuleIndex) (x : PwmModule) : (s.setPwm m x).res1 = s.res1 := rfl
@[simp] theorem State.setPwm_statusCode (m : ModuleIndex) (x : PwmModule) :
    (s.setPwm m x).statusCode = s.statusCode := rfl
@[simp] theorem State.setPwm_statusOp (m : ModuleIndex) (x : PwmModule) : (s.setPwm m x).statusOp = s.statusOp := rfl
@[simp] theorem State.setPwm_drvReady (m : ModuleIndex) (x : PwmModule) : (s.setPwm m x).drvReady = s.drvReady := rfl
@[simp] theorem State.setPwm_sysclk (m : ModuleIndex) (x : PwmModule) : (s.setPwm m x).sysclk = s.sysclk := rfl
@[simp] theorem State.setPwm_pwm (m : ModuleIndex) (x : PwmModule) :
    (s.setPwm m x).pwm = s.pwm.set m.toNat x m.isLt := rfl
@[simp] theorem State.setPwm_adc (m : ModuleIndex) (x : PwmModule) : (s.setPwm m x).adc = s.adc := rfl
@[simp] theorem State.setPwm_sram (m : ModuleIndex) (x : PwmModule) : (s.setPwm m x).sram = s.sram := rfl
@[simp] theorem State.setPwm_written (m : ModuleIndex) (x : PwmModule) : (s.setPwm m x).written = s.written := rfl
@[simp] theorem State.setPwm_history (m : ModuleIndex) (x : PwmModule) : (s.setPwm m x).history = s.history := rfl
@[simp] theorem State.setPwm_faults (m : ModuleIndex) (x : PwmModule) : (s.setPwm m x).faults = s.faults := rfl
@[simp] theorem State.setPwm_params (m : ModuleIndex) (x : PwmModule) : (s.setPwm m x).params = s.params := rfl
@[simp] theorem State.setPwm_inputs (m : ModuleIndex) (x : PwmModule) : (s.setPwm m x).inputs = s.inputs := rfl
@[simp] theorem State.setPwm_busRead (m : ModuleIndex) (x : PwmModule) : (s.setPwm m x).busRead = s.busRead := rfl
@[simp] theorem State.setPwm_draws (m : ModuleIndex) (x : PwmModule) : (s.setPwm m x).draws = s.draws := rfl

/-! ### clearWritten -/

@[simp] theorem State.clearWritten_arg0 : s.clearWritten.arg0 = s.arg0 := rfl
@[simp] theorem State.clearWritten_arg1 : s.clearWritten.arg1 = s.arg1 := rfl
@[simp] theorem State.clearWritten_arg2 : s.clearWritten.arg2 = s.arg2 := rfl
@[simp] theorem State.clearWritten_arg3 : s.clearWritten.arg3 = s.arg3 := rfl
@[simp] theorem State.clearWritten_res0 : s.clearWritten.res0 = s.res0 := rfl
@[simp] theorem State.clearWritten_res1 : s.clearWritten.res1 = s.res1 := rfl
@[simp] theorem State.clearWritten_statusCode : s.clearWritten.statusCode = s.statusCode := rfl
@[simp] theorem State.clearWritten_statusOp : s.clearWritten.statusOp = s.statusOp := rfl
@[simp] theorem State.clearWritten_drvReady : s.clearWritten.drvReady = s.drvReady := rfl
@[simp] theorem State.clearWritten_sysclk : s.clearWritten.sysclk = s.sysclk := rfl
@[simp] theorem State.clearWritten_pwm : s.clearWritten.pwm = s.pwm := rfl
@[simp] theorem State.clearWritten_adc : s.clearWritten.adc = s.adc := rfl
@[simp] theorem State.clearWritten_sram : s.clearWritten.sram = s.sram := rfl
@[simp] theorem State.clearWritten_written : s.clearWritten.written = [] := rfl
@[simp] theorem State.clearWritten_history : s.clearWritten.history = s.history := rfl
@[simp] theorem State.clearWritten_faults : s.clearWritten.faults = s.faults := rfl
@[simp] theorem State.clearWritten_params : s.clearWritten.params = s.params := rfl
@[simp] theorem State.clearWritten_inputs : s.clearWritten.inputs = s.inputs := rfl
@[simp] theorem State.clearWritten_busRead : s.clearWritten.busRead = s.busRead := rfl
@[simp] theorem State.clearWritten_draws : s.clearWritten.draws = s.draws := rfl

/-! ### sampleWrite -/

@[simp] theorem State.sampleWrite_arg0 (i : Nat) (v : Half) : (s.sampleWrite i v).arg0 = s.arg0 := rfl
@[simp] theorem State.sampleWrite_arg1 (i : Nat) (v : Half) : (s.sampleWrite i v).arg1 = s.arg1 := rfl
@[simp] theorem State.sampleWrite_arg2 (i : Nat) (v : Half) : (s.sampleWrite i v).arg2 = s.arg2 := rfl
@[simp] theorem State.sampleWrite_arg3 (i : Nat) (v : Half) : (s.sampleWrite i v).arg3 = s.arg3 := rfl
@[simp] theorem State.sampleWrite_res0 (i : Nat) (v : Half) : (s.sampleWrite i v).res0 = s.res0 := rfl
@[simp] theorem State.sampleWrite_res1 (i : Nat) (v : Half) : (s.sampleWrite i v).res1 = s.res1 := rfl
@[simp] theorem State.sampleWrite_statusCode (i : Nat) (v : Half) :
    (s.sampleWrite i v).statusCode = s.statusCode := rfl
@[simp] theorem State.sampleWrite_statusOp (i : Nat) (v : Half) : (s.sampleWrite i v).statusOp = s.statusOp := rfl
@[simp] theorem State.sampleWrite_drvReady (i : Nat) (v : Half) : (s.sampleWrite i v).drvReady = s.drvReady := rfl
@[simp] theorem State.sampleWrite_sysclk (i : Nat) (v : Half) : (s.sampleWrite i v).sysclk = s.sysclk := rfl
@[simp] theorem State.sampleWrite_pwm (i : Nat) (v : Half) : (s.sampleWrite i v).pwm = s.pwm := rfl
@[simp] theorem State.sampleWrite_adc (i : Nat) (v : Half) : (s.sampleWrite i v).adc = s.adc := rfl
@[simp] theorem State.sampleWrite_sram (i : Nat) (v : Half) :
    (s.sampleWrite i v).sram = Memory.writeHalf s.sram i v := rfl
@[simp] theorem State.sampleWrite_written (i : Nat) (v : Half) :
    (s.sampleWrite i v).written = Marks.set s.written i := rfl
@[simp] theorem State.sampleWrite_history (i : Nat) (v : Half) : (s.sampleWrite i v).history = s.history := rfl
@[simp] theorem State.sampleWrite_faults (i : Nat) (v : Half) : (s.sampleWrite i v).faults = s.faults := rfl
@[simp] theorem State.sampleWrite_params (i : Nat) (v : Half) : (s.sampleWrite i v).params = s.params := rfl
@[simp] theorem State.sampleWrite_inputs (i : Nat) (v : Half) : (s.sampleWrite i v).inputs = s.inputs := rfl
@[simp] theorem State.sampleWrite_busRead (i : Nat) (v : Half) : (s.sampleWrite i v).busRead = s.busRead := rfl
@[simp] theorem State.sampleWrite_draws (i : Nat) (v : Half) : (s.sampleWrite i v).draws = s.draws := rfl

/-! ### resetSequencer -/

@[simp] theorem State.resetSequencer_arg0 : s.resetSequencer.arg0 = s.arg0 := rfl
@[simp] theorem State.resetSequencer_arg1 : s.resetSequencer.arg1 = s.arg1 := rfl
@[simp] theorem State.resetSequencer_arg2 : s.resetSequencer.arg2 = s.arg2 := rfl
@[simp] theorem State.resetSequencer_arg3 : s.resetSequencer.arg3 = s.arg3 := rfl
@[simp] theorem State.resetSequencer_res0 : s.resetSequencer.res0 = s.res0 := rfl
@[simp] theorem State.resetSequencer_res1 : s.resetSequencer.res1 = s.res1 := rfl
@[simp] theorem State.resetSequencer_statusCode : s.resetSequencer.statusCode = s.statusCode := rfl
@[simp] theorem State.resetSequencer_statusOp : s.resetSequencer.statusOp = s.statusOp := rfl
@[simp] theorem State.resetSequencer_drvReady : s.resetSequencer.drvReady = s.drvReady := rfl
@[simp] theorem State.resetSequencer_sysclk : s.resetSequencer.sysclk = s.sysclk := rfl
@[simp] theorem State.resetSequencer_pwm : s.resetSequencer.pwm = s.pwm := rfl
@[simp] theorem State.resetSequencer_adc :
    s.resetSequencer.adc = { s.adc with seqState := .idle, intFlag := false } := rfl
@[simp] theorem State.resetSequencer_sram : s.resetSequencer.sram = s.sram := rfl
@[simp] theorem State.resetSequencer_written : s.resetSequencer.written = s.written := rfl
@[simp] theorem State.resetSequencer_history : s.resetSequencer.history = s.history := rfl
@[simp] theorem State.resetSequencer_faults : s.resetSequencer.faults = s.faults := rfl
@[simp] theorem State.resetSequencer_params : s.resetSequencer.params = s.params := rfl
@[simp] theorem State.resetSequencer_inputs : s.resetSequencer.inputs = s.inputs := rfl
@[simp] theorem State.resetSequencer_busRead : s.resetSequencer.busRead = s.busRead := rfl
@[simp] theorem State.resetSequencer_draws : s.resetSequencer.draws = s.draws := rfl

/-! ### popInput -/

@[simp] theorem State.popInput_arg0 : s.popInput.arg0 = s.arg0 := rfl
@[simp] theorem State.popInput_arg1 : s.popInput.arg1 = s.arg1 := rfl
@[simp] theorem State.popInput_arg2 : s.popInput.arg2 = s.arg2 := rfl
@[simp] theorem State.popInput_arg3 : s.popInput.arg3 = s.arg3 := rfl
@[simp] theorem State.popInput_res0 : s.popInput.res0 = s.res0 := rfl
@[simp] theorem State.popInput_res1 : s.popInput.res1 = s.res1 := rfl
@[simp] theorem State.popInput_statusCode : s.popInput.statusCode = s.statusCode := rfl
@[simp] theorem State.popInput_statusOp : s.popInput.statusOp = s.statusOp := rfl
@[simp] theorem State.popInput_drvReady : s.popInput.drvReady = s.drvReady := rfl
@[simp] theorem State.popInput_sysclk : s.popInput.sysclk = s.sysclk := rfl
@[simp] theorem State.popInput_pwm : s.popInput.pwm = s.pwm := rfl
@[simp] theorem State.popInput_adc : s.popInput.adc = s.adc := rfl
@[simp] theorem State.popInput_sram : s.popInput.sram = s.sram := rfl
@[simp] theorem State.popInput_written : s.popInput.written = s.written := rfl
@[simp] theorem State.popInput_history : s.popInput.history = s.history := rfl
@[simp] theorem State.popInput_faults : s.popInput.faults = s.faults := rfl
@[simp] theorem State.popInput_params : s.popInput.params = s.params := rfl
@[simp] theorem State.popInput_inputs : s.popInput.inputs = s.inputs.tail := rfl
@[simp] theorem State.popInput_busRead : s.popInput.busRead = s.busRead := rfl
@[simp] theorem State.popInput_draws : s.popInput.draws = s.draws := rfl

/-! ### finish -/

@[simp] theorem State.finish_arg0 (w : Word) (c : Code) : (s.finish w c).arg0 = s.arg0 := rfl
@[simp] theorem State.finish_arg1 (w : Word) (c : Code) : (s.finish w c).arg1 = s.arg1 := rfl
@[simp] theorem State.finish_arg2 (w : Word) (c : Code) : (s.finish w c).arg2 = s.arg2 := rfl
@[simp] theorem State.finish_arg3 (w : Word) (c : Code) : (s.finish w c).arg3 = s.arg3 := rfl
@[simp] theorem State.finish_res0 (w : Word) (c : Code) : (s.finish w c).res0 = s.res0 := rfl
@[simp] theorem State.finish_res1 (w : Word) (c : Code) : (s.finish w c).res1 = s.res1 := rfl
@[simp] theorem State.finish_statusCode (w : Word) (c : Code) : (s.finish w c).statusCode = c := rfl
@[simp] theorem State.finish_statusOp (w : Word) (c : Code) : (s.finish w c).statusOp = opField w := rfl
@[simp] theorem State.finish_drvReady (w : Word) (c : Code) : (s.finish w c).drvReady = s.drvReady := rfl
@[simp] theorem State.finish_sysclk (w : Word) (c : Code) : (s.finish w c).sysclk = s.sysclk := rfl
@[simp] theorem State.finish_pwm (w : Word) (c : Code) : (s.finish w c).pwm = s.pwm := rfl
@[simp] theorem State.finish_adc (w : Word) (c : Code) : (s.finish w c).adc = s.adc := rfl
@[simp] theorem State.finish_sram (w : Word) (c : Code) : (s.finish w c).sram = s.sram := rfl
@[simp] theorem State.finish_written (w : Word) (c : Code) : (s.finish w c).written = s.written := rfl
@[simp] theorem State.finish_history (w : Word) (c : Code) :
    (s.finish w c).history = s.history ++ [.cmd w s.arg0 s.arg1 s.arg2 s.arg3 c] := rfl
@[simp] theorem State.finish_faults (w : Word) (c : Code) : (s.finish w c).faults = s.faults := rfl
@[simp] theorem State.finish_params (w : Word) (c : Code) : (s.finish w c).params = s.params := rfl
@[simp] theorem State.finish_inputs (w : Word) (c : Code) : (s.finish w c).inputs = s.inputs := rfl
@[simp] theorem State.finish_busRead (w : Word) (c : Code) : (s.finish w c).busRead = s.busRead := rfl
@[simp] theorem State.finish_draws (w : Word) (c : Code) : (s.finish w c).draws = s.draws := rfl

end Sys2Proof.Machine
end

