-- ==== Sys2Proof/Laws/Ops.lean ====
section
/-! SUPPORT. One lemma per shared operation, which says once everything the operation can do: the ends of a
command, the checks at the top of a command, the module slots, results that may have no value, the window, the
fault set, and the pieces of the environment's steps. -/

namespace Sys2Proof.Machine

variable (s : State)

/-! ### The ends of a command -/

@[simp] theorem endWith_eq (i : Instr) (c : Code) : endWith i c s = .next (s.finish (encode i) c) := rfl
@[simp] theorem finishOk_eq (i : Instr) : finishOk i s = .next (s.finish (encode i) .ok) := rfl
@[simp] theorem finishRejected_eq (i : Instr) :
    finishRejected i s = .next (s.finish (encode i) .rejected) := rfl
@[simp] theorem finishUnusable_eq (i : Instr) :
    finishUnusable i s = .next (s.finish (encode i) .unusable) := rfl
@[simp] theorem finishIllegal_eq (i : Instr) :
    finishIllegal i s = .next (s.finish (encode i) .illegal) := rfl
@[simp] theorem updateModule_eq (i : Instr) (m : ModuleIndex) (x : PwmModule) :
    updateModule i m s x = .next ((s.setPwm m x).finish (encode i) .ok) := rfl
@[simp] theorem answer_eq (i : Instr) (v : Word) :
    answer i s v = .next ((s.setRes0 v).finish (encode i) .ok) := rfl
@[simp] theorem answerNat_eq (i : Instr) (v : Option Nat) :
    answerNat i s v = .next ((s.setRes0Nat v).finish (encode i) .ok) := rfl

/-! ### The checks at the top of a command -/

variable {s} in
theorem State.usable_iff {m : ModuleIndex} :
    s.usable m = true ↔ m.toNat < s.params.pwmModules ∧ (s.pwmAt m).st ≠ .uninit := by
  simp [State.usable, State.moduleExists]

variable {s} in
@[simp] theorem onModule_of_usable {i : Instr} {m : ModuleIndex} {k : PwmModule → Result}
    (h : s.usable m = true) : onModule i m s k = k (s.pwmAt m) := by simp [onModule, h]

variable {s} in
@[simp] theorem onModule_of_not_usable {i : Instr} {m : ModuleIndex} {k : PwmModule → Result}
    (h : s.usable m = false) : onModule i m s k = .next (s.finish (encode i) .unusable) := by
  simp [onModule, h]

variable {s} in
/-- What a module check answers: the command's own answer on a usable module, or `UNUSABLE`. -/
theorem onModule_eq_next {i : Instr} {m : ModuleIndex} {k : PwmModule → Result} {t : State}
    (h : onModule i m s k = .next t) :
    (s.usable m = true ∧ k (s.pwmAt m) = .next t) ∨
      (s.usable m = false ∧ t = s.finish (encode i) .unusable) := by
  cases hu : s.usable m
  · rw [onModule_of_not_usable hu] at h
    exact .inr ⟨rfl, by injection h with h; exact h.symm⟩
  · rw [onModule_of_usable hu] at h
    exact .inl ⟨rfl, h⟩

variable {s} in
@[simp] theorem onAdc_of_constructed {i : Instr} {k : Result} (h : s.adc.st = .constructed) :
    onAdc i s k = k := by simp [onAdc, h]

variable {s} in
@[simp] theorem onAdc_of_not_constructed {i : Instr} {k : Result} (h : s.adc.st ≠ .constructed) :
    onAdc i s k = .next (s.finish (encode i) .unusable) := by simp [onAdc, h]

variable {s} in
/-- What the ADC check answers: the command's own answer on a constructed ADC, or `UNUSABLE`. -/
theorem onAdc_eq_next {i : Instr} {k : Result} {t : State} (h : onAdc i s k = .next t) :
    (s.adc.st = .constructed ∧ k = .next t) ∨
      (s.adc.st ≠ .constructed ∧ t = s.finish (encode i) .unusable) := by
  by_cases hc : s.adc.st = .constructed
  · rw [onAdc_of_constructed hc] at h
    exact .inl ⟨hc, h⟩
  · rw [onAdc_of_not_constructed hc] at h
    exact .inr ⟨hc, by injection h with h; exact h.symm⟩

variable {s} in
/-- What the ring commands' check answers: the command's own answer with a bound task, `REJECTED` without one,
or `UNUSABLE`. -/
theorem onTask_eq_next {i : Instr} {k : Result} {t : State} (h : onTask i s k = .next t) :
    (s.adc.st = .constructed ∧ s.adc.bound = true ∧ k = .next t) ∨
      (s.adc.st = .constructed ∧ s.adc.bound = false ∧ t = s.finish (encode i) .rejected) ∨
      (s.adc.st ≠ .constructed ∧ t = s.finish (encode i) .unusable) := by
  rcases onAdc_eq_next h with ⟨hc, h⟩ | h
  · cases hb : s.adc.bound
    · simp only [hb, Bool.false_eq_true, if_false, finishRejected_eq] at h
      exact .inr (.inl ⟨hc, rfl, by injection h with h; exact h.symm⟩)
    · simp only [hb, if_true] at h
      exact .inl ⟨hc, rfl, h⟩
  · exact .inr (.inr h)

/-! ### Module slots -/

@[simp] theorem State.pwmAt_setPwm_same (m : ModuleIndex) (x : PwmModule) :
    (s.setPwm m x).pwmAt m = x := by simp [State.pwmAt, State.setPwm]

@[simp] theorem State.setPwm_setPwm (m : ModuleIndex) (x y : PwmModule) :
    (s.setPwm m x).setPwm m y = s.setPwm m y := by simp [State.setPwm]

@[simp] theorem State.setPwm_pwmAt (m : ModuleIndex) : s.setPwm m (s.pwmAt m) = s := by
  simp [State.setPwm, State.pwmAt]

theorem State.pwmAt_setPwm_other {m k : ModuleIndex} (h : k ≠ m) (x : PwmModule) :
    (s.setPwm m x).pwmAt k = s.pwmAt k := by
  have : m.toNat ≠ k.toNat := fun e => h (BitVec.eq_of_toNat_eq e.symm)
  simp [State.pwmAt, State.setPwm, Vector.getElem_set_ne _ _ this]

theorem State.pwmAt_setPwm (m k : ModuleIndex) (x : PwmModule) :
    (s.setPwm m x).pwmAt k = if k = m then x else s.pwmAt k := by
  split_ifs with h
  · subst h; exact s.pwmAt_setPwm_same k x
  · exact s.pwmAt_setPwm_other h x

variable {s} in
/-- A module slot is a function of the list of modules alone. -/
theorem State.pwmAt_congr {t : State} (h : t.pwm = s.pwm) (m : ModuleIndex) : t.pwmAt m = s.pwmAt m := by
  simp [State.pwmAt, h]

/-! ### Registers of a parameter's width -/

/-- A register holds the value's low bits, so no more than its width. -/
theorem regValue_toNat {bits : Nat} (h : bits ≤ 32) (v : Nat) : (regValue bits v).toNat = v % 2 ^ bits := by
  have : v % 2 ^ bits < 2 ^ bits := Nat.mod_lt _ (Nat.two_pow_pos _)
  have := Nat.pow_le_pow_right (n := 2) (by omega) h
  rw [regValue, BitVec.toNat_ofNat, Nat.mod_eq_of_lt (by omega)]

theorem regValue_toNat_lt (bits v : Nat) : (regValue bits v).toNat < 2 ^ bits :=
  (BitVec.toNat_ofNat _ _ ▸ Nat.mod_le _ _).trans_lt (Nat.mod_lt _ (Nat.two_pow_pos _))

/-! ### Results that may have no value -/

@[simp] theorem State.setRes0Nat_of_lt {n : Nat} (h : n < 2 ^ 32) :
    s.setRes0Nat (some n) = s.setRes0 (BitVec.ofNat 32 n) := if_pos h

@[simp] theorem State.setRes1Nat_of_lt {n : Nat} (h : n < 2 ^ 32) :
    s.setRes1Nat (some n) = s.setRes1 (BitVec.ofNat 32 n) := if_pos h

/-- A result that may have no value writes `RES0` and the count of free values, nothing else. -/
theorem State.setRes0Nat_eq (v : Option Nat) :
    s.setRes0Nat v = { s with res0 := (s.setRes0Nat v).res0, draws := (s.setRes0Nat v).draws } := by
  unfold State.setRes0Nat
  split
  · split_ifs <;> rfl
  · rfl

/-- A readback writes `RES0` and the count of free values, nothing else. -/
theorem State.setRes0Readback_eq (x t clk : Nat) :
    s.setRes0Readback x t clk =
      { s with
        res0 := (s.setRes0Readback x t clk).res0
        draws := (s.setRes0Readback x t clk).draws } := by
  unfold State.setRes0Readback
  split
  · rfl
  · split_ifs <;> rfl

/-- As `State.setRes0Nat_eq`, for `RES1`. -/
theorem State.setRes1Nat_eq (v : Option Nat) :
    s.setRes1Nat v = { s with res1 := (s.setRes1Nat v).res1, draws := (s.setRes1Nat v).draws } := by
  unfold State.setRes1Nat
  split
  · split_ifs <;> rfl
  · rfl

/-! ### The register window -/

/-- Which accesses are admitted, and which word they reach. -/
theorem windowReg_eq_some (p : Params) {k : Nat} (h : k < 16) :
    windowReg p (p.blockBase + 4 * k) 4 = some (windowRegAt (4 * k)) := by
  simp [windowReg]; omega

theorem windowReg_base (p : Params) : windowReg p p.blockBase 4 = some .cmd :=
  windowReg_eq_some p (k := 0) (by omega)

theorem windowReg_eq_none (p : Params) {addr bytes : Nat}
    (h : ¬(bytes = 4 ∧ ∃ k, k < 16 ∧ addr = p.blockBase + 4 * k)) : windowReg p addr bytes = none := by
  unfold windowReg
  rw [if_neg]
  rintro ⟨h4, hlo, hhi, hm⟩
  exact h ⟨h4, (addr - p.blockBase) / 4, by omega, by omega⟩

/-- A write of a window word other than `CMD` changes argument registers only. -/
theorem State.windowWrite_eq (r : WindowReg) (v : Word) :
    s.windowWrite r v =
      { s with
        arg0 := if r = .arg0 then v else s.arg0
        arg1 := if r = .arg1 then v else s.arg1
        arg2 := if r = .arg2 then v else s.arg2
        arg3 := if r = .arg3 then v else s.arg3 } := by
  cases r <;> rfl

/-! ### The step -/

theorem step_nil (h : s.inputs = []) : step s = .next s := by simp [step, h]

variable {s} in
theorem step_cons {i : Input} {rest : List Input} (h : s.inputs = i :: rest) :
    step s = runInput i { s with inputs := rest } := by simp [step, h, State.popInput]

/-! ### The fault set -/

/-- Raising a fault adds one reason at most, and changes nothing else. -/
theorem State.raiseFault_eq (r : FaultMark) :
    s.raiseFault r = { s with faults := if r ∈ s.faults then s.faults else s.faults ++ [r] } := by
  unfold State.raiseFault
  split_ifs <;> rfl

/-! ### The environment's pieces -/

/-- Starting a pass: on an idle sequencer it begins with a record, else it is lost and flagged. -/
theorem State.startConv_eq (src : ConvSource) :
    s.startConv src =
      { s with
        adc := (s.startConv src).adc
        history := s.history ++ if s.adc.seqState = .idle then [.convStart src] else [] } := by
  unfold State.startConv
  split_ifs <;> simp [State.record]

theorem State.syncByEvent_eq (m : ModuleIndex) (e : CtrEvent) :
    s.syncByEvent m e =
      s.recordAll (if syncFires (s.pwmAt m).syncEvent e then s.syncPulseEvents m else []) := by
  unfold State.syncByEvent State.syncPulse
  split_ifs <;> simp [State.recordAll]

theorem State.loadAtZero_eq (m : ModuleIndex) (e : CtrEvent) :
    s.loadAtZero m e =
      (s.setPwm m (if e = .ctrZero then (s.pwmAt m).shadowLoad else s.pwmAt m)).recordAll
        (if e = .ctrZero then [.shadowLoad m] else []) := by
  unfold State.loadAtZero State.shadowLoad
  split_ifs <;> simp [State.recordAll, State.record]

/-- A SOC pulse changes the ADC's sequencer state and sticky flag at most, and adds to the history. -/
theorem State.socPulse_eq (m : ModuleIndex) (x : Soc) :
    ∃ es, s.socPulse m x =
      { s with adc := (s.socPulse m x).adc, history := s.history ++ .soc m x :: es } := by
  unfold State.socPulse
  split_ifs with h
  · refine ⟨if s.adc.seqState = .idle then [.convStart (.pwm m x)] else [], ?_⟩
    conv_lhs => rw [State.startConv_eq]
    simp only [State.record, List.append_assoc, List.singleton_append]
    rfl
  · exact ⟨[], rfl⟩

variable {s} in
/-- The admitted draws of a conversion (46_adc_sequencer.md R270). -/
theorem State.drawsAdmitted_iff {v : List Half} :
    s.drawsAdmitted v = true ↔
      v.length = s.adc.sampleNumber ∧ ∀ x ∈ v, x.toNat < 2 ^ s.params.adcResultBits := by
  simp [State.drawsAdmitted]

/-- The result registers a conversion writes: of the ones that exist, the drawn ones take the draws; the others
keep their values. -/
theorem writeResults_getElem (n : Nat) (r : Vector Half Config.resultSlots) (k : Nat) (v : List Half) (j : Nat)
    (h : j < Config.resultSlots) :
    (writeResults n r k v)[j] = if k ≤ j ∧ j < n then v.getD (j - k) r[j] else r[j] := by
  induction v generalizing r k with
  | nil => simp [writeResults]
  | cons d ds ih =>
    rw [writeResults, ih]
    have hset : (if k < n then r.setIfInBounds k d else r)[j] = if k = j ∧ j < n then d else r[j] := by
      by_cases h1 : k < n
      · rw [if_pos h1, Vector.getElem_setIfInBounds]
        by_cases h2 : k = j
        · subst h2; rw [if_pos rfl, if_pos ⟨rfl, h1⟩]
        · rw [if_neg h2, if_neg (by omega)]
      · rw [if_neg h1, if_neg (by omega)]
    rw [hset]
    rcases Nat.lt_trichotomy k j with hlt | rfl | hlt
    · have e : j - k = (j - (k + 1)) + 1 := by omega
      have : k ≠ j := by omega
      simp only [this, false_and, if_false, e, List.getD_cons_succ]
      simp only [show (k + 1 ≤ j) = (k ≤ j) by simp; omega]
    · simp
    · rw [if_neg (by omega), if_neg (by omega), if_neg (by omega)]

end Sys2Proof.Machine
end

