-- ==== Sys2Proof/Laws/PerInstr.lean ====
section
/-! SUPPORT. Laws made per instruction: one lemma for each constructor of `Instr`. -/

namespace Sys2Proof.Laws.EncodesInItsRow

/-- The word of a command has the opcode of a row of the opcode map, and the row's fixed bits as the row has
them (30_encoding.md R96). -/
def Statement (i : Instr) : Prop :=
  ∃ r, commandRows.find? (fun r => r.opcode == opField (encode i)) = some r ∧
    r.opcode = opField (encode i) ∧ encode i &&& r.mask = commandWord r.opcode 0#4 0#4 0#16

theorem commandWord_and (op op' : BitVec 8) (m a s b : BitVec 4) (i c : BitVec 16) :
    commandWord op m s i &&& commandWord op' a b c =
      commandWord (op &&& op') (m &&& a) (s &&& b) (i &&& c) :=
  (BitVec.and_append (x₁ := op ++ m ++ s) (x₂ := op' ++ a ++ b)).trans
    (congrArg (· ++ (i &&& c)) (BitVec.and_append.trans (congrArg (· ++ (s &&& b)) BitVec.and_append)))

theorem two_bits (v : BitVec 2) : v.setWidth 16 &&& 0xFFFC#16 = 0#16 := by revert v; decide

theorem three_bits (v : BitVec 3) : v.setWidth 16 &&& 0xFFF8#16 = 0#16 := by revert v; decide

/-- Put a row together from its parts: the row's mask has the opcode and, of each other field, the bits that the
command does not use. -/
theorem of_row {i : Instr} {op : BitVec 8} {m x a b : BitVec 4} {v c : BitVec 16} {r : CommandRow}
    (h : encode i = commandWord op m x v) (hr : commandRows.find? (fun r => r.opcode == op) = some r)
    (ho : r.opcode = op) (hmask : r.mask = commandWord 0xFF#8 a b c) (hm : m &&& a = 0#4)
    (hx : x &&& b = 0#4) (hv : v &&& c = 0#16) : Statement i := by
  refine ⟨r, by rw [h, opField_commandWord, hr], by rw [h, opField_commandWord, ho], ?_⟩
  rw [h, hmask, commandWord_and, hm, hx, hv, ho, show (0xFF#8 : BitVec 8) = BitVec.allOnes 8 from rfl,
    BitVec.and_allOnes]

theorem nop : Statement (.nop) :=
  of_row (a := 0xF#4) (b := 0xF#4) (c := 0xFFFF#16) rfl rfl rfl rfl rfl rfl rfl

theorem drvInit : Statement (.drvInit) :=
  of_row (a := 0xF#4) (b := 0xF#4) (c := 0xFFFF#16) rfl rfl rfl rfl rfl rfl rfl

theorem clkdivCalc (table : DivTable) : Statement (.clkdivCalc table) :=
  of_row (a := 0xF#4) (b := 0xE#4) (c := 0xFFFF#16) rfl rfl rfl rfl rfl (by cases table <;> rfl) rfl

theorem pwmConstruct (m : ModuleIndex) (mode : BitVec 2) : Statement (.pwmConstruct m mode) :=
  of_row (a := 0x0#4) (b := 0xF#4) (c := 0xFFFC#16) rfl rfl rfl rfl BitVec.and_zero rfl (two_bits mode)

theorem pwmRelease (m : ModuleIndex) : Statement (.pwmRelease m) :=
  of_row (a := 0x0#4) (b := 0xF#4) (c := 0xFFFF#16) rfl rfl rfl rfl BitVec.and_zero rfl rfl

theorem pwmStart (m : ModuleIndex) (n : BitVec 4) : Statement (.pwmStart m n) :=
  of_row (a := 0x0#4) (b := 0x0#4) (c := 0xFFFF#16) rfl rfl rfl rfl BitVec.and_zero BitVec.and_zero rfl

theorem pwmSetTask (m : ModuleIndex) (n : BitVec 4) : Statement (.pwmSetTask m n) :=
  of_row (a := 0x0#4) (b := 0x0#4) (c := 0xFFFF#16) rfl rfl rfl rfl BitVec.and_zero BitVec.and_zero rfl

theorem pwmStop (m : ModuleIndex) : Statement (.pwmStop m) :=
  of_row (a := 0x0#4) (b := 0xF#4) (c := 0xFFFF#16) rfl rfl rfl rfl BitVec.and_zero rfl rfl

theorem pwmGetFreq (m : ModuleIndex) (set : Bool) : Statement (.pwmGetFreq m set) :=
  of_row (a := 0x0#4) (b := 0xF#4) (c := 0xFFFE#16) rfl rfl rfl rfl BitVec.and_zero rfl (by cases set <;> rfl)

theorem pwmGetDuty (m : ModuleIndex) (c : BitVec 4) (set : Bool) : Statement (.pwmGetDuty m c set) :=
  of_row (a := 0x0#4) (b := 0x0#4) (c := 0xFFFE#16) rfl rfl rfl rfl BitVec.and_zero BitVec.and_zero
    (by cases set <;> rfl)

theorem pwmGetBounds (m : ModuleIndex) : Statement (.pwmGetBounds m) :=
  of_row (a := 0x0#4) (b := 0xF#4) (c := 0xFFFF#16) rfl rfl rfl rfl BitVec.and_zero rfl rfl

theorem pwmGetState (m : ModuleIndex) : Statement (.pwmGetState m) :=
  of_row (a := 0x0#4) (b := 0xF#4) (c := 0xFFFF#16) rfl rfl rfl rfl BitVec.and_zero rfl rfl

theorem pwmReadReg (m : ModuleIndex) (r : PwmReg) : Statement (.pwmReadReg m r) :=
  of_row (a := 0x0#4) (b := 0x0#4) (c := 0xFFFF#16) rfl rfl rfl rfl BitVec.and_zero BitVec.and_zero rfl

theorem dbSetRise (m : ModuleIndex) : Statement (.dbSetRise m) :=
  of_row (a := 0x0#4) (b := 0xF#4) (c := 0xFFFF#16) rfl rfl rfl rfl BitVec.and_zero rfl rfl

theorem dbSetFall (m : ModuleIndex) : Statement (.dbSetFall m) :=
  of_row (a := 0x0#4) (b := 0xF#4) (c := 0xFFFF#16) rfl rfl rfl rfl BitVec.and_zero rfl rfl

theorem dbGetRise (m : ModuleIndex) (set : Bool) : Statement (.dbGetRise m set) :=
  of_row (a := 0x0#4) (b := 0xF#4) (c := 0xFFFE#16) rfl rfl rfl rfl BitVec.and_zero rfl (by cases set <;> rfl)

theorem dbGetFall (m : ModuleIndex) (set : Bool) : Statement (.dbGetFall m set) :=
  of_row (a := 0x0#4) (b := 0xF#4) (c := 0xFFFE#16) rfl rfl rfl rfl BitVec.and_zero rfl (by cases set <;> rfl)

theorem tglDisable (m : ModuleIndex) (t : Toggle) : Statement (.tglDisable m t) :=
  of_row (a := 0x0#4) (b := 0x8#4) (c := 0xFFFF#16) rfl rfl rfl rfl BitVec.and_zero (by cases t <;> rfl) rfl

theorem tglEnable (m : ModuleIndex) (t : Toggle) (status : Bool) : Statement (.tglEnable m t status) :=
  of_row (a := 0x0#4) (b := 0x8#4) (c := 0xFFFE#16) rfl rfl rfl rfl BitVec.and_zero (by cases t <;> rfl)
    (by cases status <;> rfl)

theorem tglRead (m : ModuleIndex) (t : Toggle) : Statement (.tglRead m t) :=
  of_row (a := 0x0#4) (b := 0x8#4) (c := 0xFFFF#16) rfl rfl rfl rfl BitVec.and_zero (by cases t <;> rfl) rfl

theorem chpSetFreq (m : ModuleIndex) : Statement (.chpSetFreq m) :=
  of_row (a := 0x0#4) (b := 0xF#4) (c := 0xFFFF#16) rfl rfl rfl rfl BitVec.and_zero rfl rfl

theorem chpSetDuty (m : ModuleIndex) : Statement (.chpSetDuty m) :=
  of_row (a := 0x0#4) (b := 0xF#4) (c := 0xFFFF#16) rfl rfl rfl rfl BitVec.and_zero rfl rfl

theorem chpSetPulse (m : ModuleIndex) : Statement (.chpSetPulse m) :=
  of_row (a := 0x0#4) (b := 0xF#4) (c := 0xFFFF#16) rfl rfl rfl rfl BitVec.and_zero rfl rfl

theorem chpGetFreq (m : ModuleIndex) (set : Bool) : Statement (.chpGetFreq m set) :=
  of_row (a := 0x0#4) (b := 0xF#4) (c := 0xFFFE#16) rfl rfl rfl rfl BitVec.and_zero rfl (by cases set <;> rfl)

theorem chpGetDuty (m : ModuleIndex) (set : Bool) : Statement (.chpGetDuty m set) :=
  of_row (a := 0x0#4) (b := 0xF#4) (c := 0xFFFE#16) rfl rfl rfl rfl BitVec.and_zero rfl (by cases set <;> rfl)

theorem chpGetPulse (m : ModuleIndex) (set : Bool) : Statement (.chpGetPulse m set) :=
  of_row (a := 0x0#4) (b := 0xF#4) (c := 0xFFFE#16) rfl rfl rfl rfl BitVec.and_zero rfl (by cases set <;> rfl)

theorem syncSetEvent (m : ModuleIndex) (e : SyncEvent) : Statement (.syncSetEvent m e) :=
  of_row (a := 0x0#4) (b := 0xF#4) (c := 0xFFFC#16) rfl rfl rfl rfl BitVec.and_zero rfl (by cases e <;> rfl)

theorem syncGetEvent (m : ModuleIndex) : Statement (.syncGetEvent m) :=
  of_row (a := 0x0#4) (b := 0xF#4) (c := 0xFFFF#16) rfl rfl rfl rfl BitVec.and_zero rfl rfl

theorem syncIsSynchronizing (m : ModuleIndex) : Statement (.syncIsSynchronizing m) :=
  of_row (a := 0x0#4) (b := 0xF#4) (c := 0xFFFF#16) rfl rfl rfl rfl BitVec.and_zero rfl rfl

theorem syncSynchronize (m : ModuleIndex) : Statement (.syncSynchronize m) :=
  of_row (a := 0x0#4) (b := 0xF#4) (c := 0xFFFF#16) rfl rfl rfl rfl BitVec.and_zero rfl rfl

theorem phsSet (m : ModuleIndex) : Statement (.phsSet m) :=
  of_row (a := 0x0#4) (b := 0xF#4) (c := 0xFFFF#16) rfl rfl rfl rfl BitVec.and_zero rfl rfl

theorem phsGet (m : ModuleIndex) (set : Bool) : Statement (.phsGet m set) :=
  of_row (a := 0x0#4) (b := 0xF#4) (c := 0xFFFE#16) rfl rfl rfl rfl BitVec.and_zero rfl (by cases set <;> rfl)

theorem phsSetDir (m : ModuleIndex) (dir : Bool) : Statement (.phsSetDir m dir) :=
  of_row (a := 0x0#4) (b := 0xF#4) (c := 0xFFFE#16) rfl rfl rfl rfl BitVec.and_zero rfl (by cases dir <;> rfl)

theorem phsGetDir (m : ModuleIndex) : Statement (.phsGetDir m) :=
  of_row (a := 0x0#4) (b := 0xF#4) (c := 0xFFFF#16) rfl rfl rfl rfl BitVec.and_zero rfl rfl

theorem hrEnable (m : ModuleIndex) : Statement (.hrEnable m) :=
  of_row (a := 0x0#4) (b := 0xF#4) (c := 0xFFFF#16) rfl rfl rfl rfl BitVec.and_zero rfl rfl

theorem hrDisable (m : ModuleIndex) : Statement (.hrDisable m) :=
  of_row (a := 0x0#4) (b := 0xF#4) (c := 0xFFFF#16) rfl rfl rfl rfl BitVec.and_zero rfl rfl

theorem hrIsEnabled (m : ModuleIndex) : Statement (.hrIsEnabled m) :=
  of_row (a := 0x0#4) (b := 0xF#4) (c := 0xFFFF#16) rfl rfl rfl rfl BitVec.and_zero rfl rfl

theorem pwmGetResolution (m : ModuleIndex) : Statement (.pwmGetResolution m) :=
  of_row (a := 0x0#4) (b := 0xF#4) (c := 0xFFFF#16) rfl rfl rfl rfl BitVec.and_zero rfl rfl

theorem etSetEvent (m : ModuleIndex) (x : Soc) (e : BitVec 3) : Statement (.etSetEvent m x e) :=
  of_row (a := 0x0#4) (b := 0xE#4) (c := 0xFFF8#16) rfl rfl rfl rfl BitVec.and_zero (by cases x <;> rfl) (three_bits e)

theorem etResetEvent (m : ModuleIndex) (x : Soc) : Statement (.etResetEvent m x) :=
  of_row (a := 0x0#4) (b := 0xE#4) (c := 0xFFFF#16) rfl rfl rfl rfl BitVec.and_zero (by cases x <;> rfl) rfl

theorem etGetEvent (m : ModuleIndex) (x : Soc) : Statement (.etGetEvent m x) :=
  of_row (a := 0x0#4) (b := 0xE#4) (c := 0xFFFF#16) rfl rfl rfl rfl BitVec.and_zero (by cases x <;> rfl) rfl

theorem adcConstruct : Statement (.adcConstruct) :=
  of_row (a := 0xF#4) (b := 0xF#4) (c := 0xFFFF#16) rfl rfl rfl rfl rfl rfl rfl

theorem adcRelease : Statement (.adcRelease) :=
  of_row (a := 0xF#4) (b := 0xF#4) (c := 0xFFFF#16) rfl rfl rfl rfl rfl rfl rfl

theorem adcGetClock : Statement (.adcGetClock) :=
  of_row (a := 0xF#4) (b := 0xF#4) (c := 0xFFFF#16) rfl rfl rfl rfl rfl rfl rfl

theorem adcRegisterTask : Statement (.adcRegisterTask) :=
  of_row (a := 0xF#4) (b := 0xF#4) (c := 0xFFFF#16) rfl rfl rfl rfl rfl rfl rfl

theorem adcSetTrigger (m : ModuleIndex) (src : BitVec 2) : Statement (.adcSetTrigger m src) :=
  of_row (a := 0x0#4) (b := 0xF#4) (c := 0xFFFC#16) rfl rfl rfl rfl BitVec.and_zero rfl (two_bits src)

theorem adcTrigger : Statement (.adcTrigger) :=
  of_row (a := 0xF#4) (b := 0xF#4) (c := 0xFFFF#16) rfl rfl rfl rfl rfl rfl rfl

theorem adcGetFreeIndex : Statement (.adcGetFreeIndex) :=
  of_row (a := 0xF#4) (b := 0xF#4) (c := 0xFFFF#16) rfl rfl rfl rfl rfl rfl rfl

theorem adcGetFullIndex : Statement (.adcGetFullIndex) :=
  of_row (a := 0xF#4) (b := 0xF#4) (c := 0xFFFF#16) rfl rfl rfl rfl rfl rfl rfl

theorem adcSetFullIsFree : Statement (.adcSetFullIsFree) :=
  of_row (a := 0xF#4) (b := 0xF#4) (c := 0xFFFF#16) rfl rfl rfl rfl rfl rfl rfl

theorem adcIsFilled : Statement (.adcIsFilled) :=
  of_row (a := 0xF#4) (b := 0xF#4) (c := 0xFFFF#16) rfl rfl rfl rfl rfl rfl rfl

theorem adcReadSample : Statement (.adcReadSample) :=
  of_row (a := 0xF#4) (b := 0xF#4) (c := 0xFFFF#16) rfl rfl rfl rfl rfl rfl rfl

theorem adcGetStatus : Statement (.adcGetStatus) :=
  of_row (a := 0xF#4) (b := 0xF#4) (c := 0xFFFF#16) rfl rfl rfl rfl rfl rfl rfl

theorem adcClearStatus (mask : BitVec 3) : Statement (.adcClearStatus mask) :=
  of_row (a := 0xF#4) (b := 0xF#4) (c := 0xFFF8#16) rfl rfl rfl rfl rfl rfl (three_bits mask)

end Sys2Proof.Laws.EncodesInItsRow
end

