-- ==== Sys2Proof/Machine/Assembler.lean ====
section
/-! DEFINITION. The assembly forms of test programs (30_encoding.md R106, R107): each is text for a command, or
the inputs a host operation or a pseudo-instruction stands for. They are not operations of the block. -/

namespace Sys2Proof.Machine

/-- The mnemonic of a command (30_encoding.md R96). -/
def mnemonic : Instr → String
  | .nop => "NOP"
  | .drvInit => "DRV_INIT"
  | .clkdivCalc _ => "CLKDIV_CALC"
  | .pwmConstruct _ _ => "PWM_CONSTRUCT"
  | .pwmRelease _ => "PWM_RELEASE"
  | .pwmStart _ _ => "PWM_START"
  | .pwmSetTask _ _ => "PWM_SET_TASK"
  | .pwmStop _ => "PWM_STOP"
  | .pwmGetFreq _ _ => "PWM_GET_FREQ"
  | .pwmGetDuty _ _ _ => "PWM_GET_DUTY"
  | .pwmGetBounds _ => "PWM_GET_BOUNDS"
  | .pwmGetState _ => "PWM_GET_STATE"
  | .pwmReadReg _ _ => "PWM_READ_REG"
  | .dbSetRise _ => "DB_SET_RISE"
  | .dbSetFall _ => "DB_SET_FALL"
  | .dbGetRise _ _ => "DB_GET_RISE"
  | .dbGetFall _ _ => "DB_GET_FALL"
  | .tglDisable _ _ => "TGL_DISABLE"
  | .tglEnable _ _ _ => "TGL_ENABLE"
  | .tglRead _ _ => "TGL_READ"
  | .chpSetFreq _ => "CHP_SET_FREQ"
  | .chpSetDuty _ => "CHP_SET_DUTY"
  | .chpSetPulse _ => "CHP_SET_PULSE"
  | .chpGetFreq _ _ => "CHP_GET_FREQ"
  | .chpGetDuty _ _ => "CHP_GET_DUTY"
  | .chpGetPulse _ _ => "CHP_GET_PULSE"
  | .syncSetEvent _ _ => "SYNC_SET_EVENT"
  | .syncGetEvent _ => "SYNC_GET_EVENT"
  | .syncIsSynchronizing _ => "SYNC_IS_SYNCHRONIZING"
  | .syncSynchronize _ => "SYNC_SYNCHRONIZE"
  | .phsSet _ => "PHS_SET"
  | .phsGet _ _ => "PHS_GET"
  | .phsSetDir _ _ => "PHS_SET_DIR"
  | .phsGetDir _ => "PHS_GET_DIR"
  | .hrEnable _ => "HR_ENABLE"
  | .hrDisable _ => "HR_DISABLE"
  | .hrIsEnabled _ => "HR_IS_ENABLED"
  | .pwmGetResolution _ => "PWM_GET_RESOLUTION"
  | .etSetEvent _ _ _ => "ET_SET_EVENT"
  | .etResetEvent _ _ => "ET_RESET_EVENT"
  | .etGetEvent _ _ => "ET_GET_EVENT"
  | .adcConstruct => "ADC_CONSTRUCT"
  | .adcRelease => "ADC_RELEASE"
  | .adcGetClock => "ADC_GET_CLOCK"
  | .adcRegisterTask => "ADC_REGISTER_TASK"
  | .adcSetTrigger _ _ => "ADC_SET_TRIGGER"
  | .adcTrigger => "ADC_TRIGGER"
  | .adcGetFreeIndex => "ADC_GET_FREE_INDEX"
  | .adcGetFullIndex => "ADC_GET_FULL_INDEX"
  | .adcSetFullIsFree => "ADC_SET_FULL_IS_FREE"
  | .adcIsFilled => "ADC_IS_FILLED"
  | .adcReadSample => "ADC_READ_SAMPLE"
  | .adcGetStatus => "ADC_GET_STATUS"
  | .adcClearStatus _ => "ADC_CLEAR_STATUS"

/-- The used fields of a command in the order `M, S, I` (30_encoding.md R106). -/
def operandFields : Instr → List Nat
  | .nop => []
  | .drvInit => []
  | .clkdivCalc table => [(BitVec.ofBool table.toBit).toNat]
  | .pwmConstruct m mode => [m.toNat, mode.toNat]
  | .pwmRelease m => [m.toNat]
  | .pwmStart m n => [m.toNat, n.toNat]
  | .pwmSetTask m n => [m.toNat, n.toNat]
  | .pwmStop m => [m.toNat]
  | .pwmGetFreq m set => [m.toNat, set.toNat]
  | .pwmGetDuty m c set => [m.toNat, c.toNat, set.toNat]
  | .pwmGetBounds m => [m.toNat]
  | .pwmGetState m => [m.toNat]
  | .pwmReadReg m r => [m.toNat, r.code.toNat]
  | .dbSetRise m => [m.toNat]
  | .dbSetFall m => [m.toNat]
  | .dbGetRise m set => [m.toNat, set.toNat]
  | .dbGetFall m set => [m.toNat, set.toNat]
  | .tglDisable m t => [m.toNat, t.code.toNat]
  | .tglEnable m t status => [m.toNat, t.code.toNat, status.toNat]
  | .tglRead m t => [m.toNat, t.code.toNat]
  | .chpSetFreq m => [m.toNat]
  | .chpSetDuty m => [m.toNat]
  | .chpSetPulse m => [m.toNat]
  | .chpGetFreq m set => [m.toNat, set.toNat]
  | .chpGetDuty m set => [m.toNat, set.toNat]
  | .chpGetPulse m set => [m.toNat, set.toNat]
  | .syncSetEvent m e => [m.toNat, e.code.toNat]
  | .syncGetEvent m => [m.toNat]
  | .syncIsSynchronizing m => [m.toNat]
  | .syncSynchronize m => [m.toNat]
  | .phsSet m => [m.toNat]
  | .phsGet m set => [m.toNat, set.toNat]
  | .phsSetDir m dir => [m.toNat, dir.toNat]
  | .phsGetDir m => [m.toNat]
  | .hrEnable m => [m.toNat]
  | .hrDisable m => [m.toNat]
  | .hrIsEnabled m => [m.toNat]
  | .pwmGetResolution m => [m.toNat]
  | .etSetEvent m x e => [m.toNat, (BitVec.ofBool x.toBit).toNat, e.toNat]
  | .etResetEvent m x => [m.toNat, (BitVec.ofBool x.toBit).toNat]
  | .etGetEvent m x => [m.toNat, (BitVec.ofBool x.toBit).toNat]
  | .adcConstruct => []
  | .adcRelease => []
  | .adcGetClock => []
  | .adcRegisterTask => []
  | .adcSetTrigger m src => [m.toNat, src.toNat]
  | .adcTrigger => []
  | .adcGetFreeIndex => []
  | .adcGetFullIndex => []
  | .adcSetFullIsFree => []
  | .adcIsFilled => []
  | .adcReadSample => []
  | .adcGetStatus => []
  | .adcClearStatus mask => [mask.toNat]

/-- A command's text: `MNEMONIC` and its used fields, separated by commas (30_encoding.md R106). -/
def assembly (i : Instr) : String :=
  match operandFields i with
  | [] => mnemonic i
  | fs => mnemonic i ++ " " ++ ", ".intercalate (fs.map toString)

/-- `WR ARGn, v` (30_encoding.md R106). -/
def wrArg (p : Params) (n : Nat) (v : Word) : Input := .hostWrite (p.blockBase + 4 + 4 * n) 4 v

/-- A command: the `CMD` write of its word. -/
def issue (p : Params) (i : Instr) : Input := .hostWrite p.blockBase 4 (encode i)

/-- `RD RESn` (30_encoding.md R106). -/
def rdRes (p : Params) (n : Nat) : Input := .hostRead (p.blockBase + 0x14 + 4 * n) 4

/-- `RD STATUS` (30_encoding.md R106). -/
def rdStatus (p : Params) : Input := .hostRead (p.blockBase + 0x1C) 4

/-- `SETARG n, v` (30_encoding.md R107). -/
def setArg (p : Params) (n : Nat) (v : Word) : List Input := [wrArg p n v]

/-- `PWM_TASK m, f, d0, d1` (30_encoding.md R107). -/
def pwmTask (p : Params) (m : ModuleIndex) (f : Word) (d0 d1 : Half) : List Input :=
  [wrArg p 0 f, wrArg p 1 (d1 ++ d0), issue p (.pwmStart m 2#4)]

/-- `PWM_RETASK m, f, d0, d1` (30_encoding.md R107). -/
def pwmRetask (p : Params) (m : ModuleIndex) (f : Word) (d0 d1 : Half) : List Input :=
  [wrArg p 0 f, wrArg p 1 (d1 ++ d0), issue p (.pwmSetTask m 2#4)]

/-- `ADC_TASK B, S, C, R, ch0..ch7` (30_encoding.md R107); `channels` is the packed channel list. -/
def adcTask (p : Params) (b s : BitVec 8) (c : BitVec 4) (r : BitVec 2) (channels : Word) : List Input :=
  [wrArg p 0 (0#10 ++ r ++ c ++ s ++ b), wrArg p 1 channels, issue p .adcRegisterTask]

/-- `CALL_OK`: what the host requires of the `STATUS` word it read (30_encoding.md R107). -/
def callOk (status : Word) : Bool := status.extractLsb' 0 2 == 0#2

end Sys2Proof.Machine
end

