-- ==== Sys2Proof/Tests/Slice0.lean ====
section
/-! SUPPORT. The model's own tests. The words are the encoding strings of 30_encoding.md R96 with their field bits
filled in; the expected results are the rows of 95_test_vectors.md (its section stands in each heading) or are
computed by hand from the rule a test names. The witnesses at the end meet the hypotheses of the statements. -/

set_option Elab.async false

namespace Sys2Proof.Tests

open Sys2Proof.Machine Sys2Proof.Statements

/-! ### Well-formed commands (30_encoding.md R94) -/

theorem test_mode_3_is_not_well_formed : (Instr.pwmConstruct 0 3).wellFormed = false := by decide
theorem test_modes_are_well_formed :
    (Instr.pwmConstruct 15 0).WellFormed ∧ (Instr.pwmConstruct 15 1).WellFormed ∧
    (Instr.pwmConstruct 15 2).WellFormed := by decide
theorem test_source_3_is_not_well_formed : (Instr.adcSetTrigger 0 3).wellFormed = false := by decide
theorem test_sources_are_well_formed :
    (Instr.adcSetTrigger 15 0).WellFormed ∧ (Instr.adcSetTrigger 15 1).WellFormed ∧
    (Instr.adcSetTrigger 15 2).WellFormed := by decide

/-! ### Decoding (30_encoding.md R96), every command with its field bits set -/

theorem test_decode_driver :
    decode 0x00000000 = .ok .nop ∧
    decode 0x01000000 = .ok .drvInit ∧
    decode 0x02010000 = .ok (.clkdivCalc .adc) :=
  ⟨rfl, rfl, rfl⟩

theorem test_decode_time_base :
    decode 0x10A00002 = .ok (.pwmConstruct 10 2) ∧
    decode 0x11A00000 = .ok (.pwmRelease 10) ∧
    decode 0x12A90000 = .ok (.pwmStart 10 9) ∧
    decode 0x13A90000 = .ok (.pwmSetTask 10 9) ∧
    decode 0x14A00000 = .ok (.pwmStop 10) ∧
    decode 0x15A00001 = .ok (.pwmGetFreq 10 true) ∧
    decode 0x16A90001 = .ok (.pwmGetDuty 10 9 true) ∧
    decode 0x17A00000 = .ok (.pwmGetBounds 10) ∧
    decode 0x18A00000 = .ok (.pwmGetState 10) ∧
    decode 0x19AB0000 = .ok (.pwmReadReg 10 .tbphs) :=
  ⟨rfl, rfl, rfl, rfl, rfl, rfl, rfl, rfl, rfl, rfl⟩

theorem test_decode_dead_band_and_toggle :
    decode 0x20A00000 = .ok (.dbSetRise 10) ∧
    decode 0x21A00000 = .ok (.dbSetFall 10) ∧
    decode 0x22A00001 = .ok (.dbGetRise 10 true) ∧
    decode 0x23A00001 = .ok (.dbGetFall 10 true) ∧
    decode 0x28A50000 = .ok (.tglDisable 10 .input1) ∧
    decode 0x29A50001 = .ok (.tglEnable 10 .input1 true) ∧
    decode 0x2AA50000 = .ok (.tglRead 10 .input1) :=
  ⟨rfl, rfl, rfl, rfl, rfl, rfl, rfl⟩

theorem test_decode_chopper :
    decode 0x30A00000 = .ok (.chpSetFreq 10) ∧
    decode 0x31A00000 = .ok (.chpSetDuty 10) ∧
    decode 0x32A00000 = .ok (.chpSetPulse 10) ∧
    decode 0x33A00001 = .ok (.chpGetFreq 10 true) ∧
    decode 0x34A00001 = .ok (.chpGetDuty 10 true) ∧
    decode 0x35A00001 = .ok (.chpGetPulse 10 true) :=
  ⟨rfl, rfl, rfl, rfl, rfl, rfl⟩

theorem test_decode_sync_phase_hr :
    decode 0x40A00001 = .ok (.syncSetEvent 10 .period) ∧
    decode 0x41A00000 = .ok (.syncGetEvent 10) ∧
    decode 0x42A00000 = .ok (.syncIsSynchronizing 10) ∧
    decode 0x43A00000 = .ok (.syncSynchronize 10) ∧
    decode 0x44A00000 = .ok (.phsSet 10) ∧
    decode 0x45A00001 = .ok (.phsGet 10 true) ∧
    decode 0x46A00001 = .ok (.phsSetDir 10 true) ∧
    decode 0x47A00000 = .ok (.phsGetDir 10) ∧
    decode 0x48A00000 = .ok (.hrEnable 10) ∧
    decode 0x49A00000 = .ok (.hrDisable 10) ∧
    decode 0x4AA00000 = .ok (.hrIsEnabled 10) ∧
    decode 0x4BA00000 = .ok (.pwmGetResolution 10) :=
  ⟨rfl, rfl, rfl, rfl, rfl, rfl, rfl, rfl, rfl, rfl, rfl, rfl⟩

theorem test_decode_event_trigger :
    decode 0x50A10005 = .ok (.etSetEvent 10 .socb 5) ∧
    decode 0x51A10000 = .ok (.etResetEvent 10 .socb) ∧
    decode 0x52A10000 = .ok (.etGetEvent 10 .socb) :=
  ⟨rfl, rfl, rfl⟩

theorem test_decode_adc :
    decode 0x60000000 = .ok .adcConstruct ∧
    decode 0x61000000 = .ok .adcRelease ∧
    decode 0x62000000 = .ok .adcGetClock ∧
    decode 0x63000000 = .ok .adcRegisterTask ∧
    decode 0x64A00002 = .ok (.adcSetTrigger 10 2) ∧
    decode 0x65000000 = .ok .adcTrigger ∧
    decode 0x66000000 = .ok .adcGetFreeIndex ∧
    decode 0x67000000 = .ok .adcGetFullIndex ∧
    decode 0x68000000 = .ok .adcSetFullIsFree ∧
    decode 0x69000000 = .ok .adcIsFilled ∧
    decode 0x6A000000 = .ok .adcReadSample ∧
    decode 0x6B000000 = .ok .adcGetStatus ∧
    decode 0x6C000005 = .ok (.adcClearStatus 5) :=
  ⟨rfl, rfl, rfl, rfl, rfl, rfl, rfl, rfl, rfl, rfl, rfl, rfl, rfl⟩

theorem test_decode_refuses :
    decode 0x03000000 = .error .reservedOpcode ∧ decode 0x1A000000 = .error .reservedOpcode ∧
    decode 0x01000001 = .error .mustBeZero ∧ decode 0x28080000 = .error .mustBeZero ∧
    decode 0x10000003 = .error .fieldValue ∧ decode 0x64000003 = .error .fieldValue :=
  ⟨rfl, rfl, rfl, rfl, rfl, rfl⟩

/-! ### Small states and what a test looks at -/

/-- A part of the next state of an outcome. -/
def see {α : Type} (f : State → α) : Result → Option α
  | .next t => some (f t)
  | .fault _ => none
  | .refused _ => none

/-- A reset block with the clock of the vectors and two arguments. -/
def clocked (a0 a1 : Word) : State :=
  { State.reset with drvReady := true, sysclk := 150000000, arg0 := a0, arg1 := a1 }

/-- A module at 150 MHz with no task. -/
def fresh (md : Mode) : PwmModule :=
  { PwmModule.reset with st := .constructed, clkEn := true, mode := md, tbclk := 150000000 }

/-- The module of program P1 after its PWM_START: 42000 Hz, both duties 50 %. -/
def busy : PwmModule :=
  { fresh .up with
    st := .running
    taskValid := true
    taskFreq := 42000
    taskN := 2
    taskDuty := ⟨5000, 5000⟩
    tbprd := 3571
    tbprdA := 3571
    cmp := ⟨1785, 1785⟩
    cmpA := ⟨1785, 1785⟩ }

/-- The clocked block with a module in slot 0. -/
def withModule (x : PwmModule) (a0 a1 : Word) : State := (clocked a0 a1).setPwm 0 x

/-- A constructed ADC with no task (program P2, line 2). -/
def freshAdc : AdcState := { AdcState.reset with st := .constructed, clock := 25000000, fine := 3 }

/-- The ADC of program P2 with its task bound: 2 blocks, 4 sequences, 1 channel, 2 results. -/
def boundAdc : AdcState :=
  { freshAdc with
    bound := true
    nBlocks := 2
    nSeq := 4
    nChan := 1
    nRes := 2
    chsel := #v[3, 0, 0, 0, 0, 0, 0, 0] }

/-- The clocked block with an ADC. -/
def withAdc (a : AdcState) (a0 a1 : Word) : State := { clocked a0 a1 with adc := a }

/-- The status code of a command. -/
def code : Result → Option Code := see State.statusCode

/-- Module 0 after a command. -/
def module0 {α : Type} (f : PwmModule → α) : Result → Option α := see fun t => f (t.pwmAt 0)

/-- The ADC after a step. -/
def adc {α : Type} (f : AdcState → α) : Result → Option α := see fun t => f t.adc

/-! ### Status and driver (sections 2.1, 2.2, P5) -/

theorem test_nop_status : see State.statusWord (exec .nop State.reset) = some 0 := by decide
theorem test_drv_init : see State.sysclk (exec .drvInit { State.reset with arg0 := 150000000 }) =
    some 150000000 := by decide
theorem test_drv_init_once : code (exec .drvInit (clocked 150000000 0)) = some .rejected := by decide
theorem test_clkdiv_pwm : see (fun t => (t.res0, t.res1))
    (exec (.clkdivCalc .pwm) (clocked 150000000 1000000)) = some (937500, 0x0504) := by decide +kernel
theorem test_clkdiv_adc_tie : see (fun t => (t.res0, t.res1))
    (exec (.clkdivCalc .adc) (clocked 150000000 25000000)) = some (25000000, 0x0300) := by decide +kernel
theorem test_illegal_word : see State.statusWord (runCommand 0x7F000000 State.reset) = some 0x00007F03 := by
  decide

/-! ### Time base (section 2.3, P1) -/

theorem test_pwm_construct : see (fun t => ((t.pwmAt 0).tbclk, (t.pwmAt 0).mode, t.res1))
    (exec (.pwmConstruct 0 1) (clocked 100000000 0)) = some (75000000, .down, 0x0100) := by decide +kernel
theorem test_pwm_construct_no_slot : code (exec (.pwmConstruct 6 0) (clocked 150000000 0)) =
    some .unusable := by decide
theorem test_pwm_release : module0 id (exec (.pwmRelease 0) (withModule busy 0 0)) =
    some PwmModule.reset := by decide
theorem test_pwm_start : module0 (fun x => (x.tbprdA, x.cmpA, x.st))
    (exec (.pwmStart 0 2) (withModule (fresh .up) 42000 0x13881388)) =
    some (3571, ⟨1785, 1785⟩, .running) := by decide
theorem test_pwm_start_too_slow : code (exec (.pwmStart 0 2) (withModule (fresh .up) 2288 0)) =
    some .rejected := by decide
theorem test_pwm_set_task_shadow : module0 (fun x => (x.tbprd, x.cmp, x.tbprdA))
    (exec (.pwmSetTask 0 2) (withModule busy 20000 0x09C409C4)) =
    some (7499, ⟨5624, 5624⟩, 3571) := by decide
theorem test_pwm_set_task_updown : module0 (fun x => (x.tbprd, x.cmp.c0))
    (exec (.pwmSetTask 0 1) (withModule (fresh .updown) 20000 2500)) = some (3750, 2813) := by decide
theorem test_pwm_stop : module0 (fun x => (x.st, x.tbctl)) (exec (.pwmStop 0) (withModule busy 0 0)) =
    some (.stopped, 0x0033) := by decide
theorem test_pwm_get_freq : see State.res0 (exec (.pwmGetFreq 0 false) (withModule busy 0 0)) =
    some 41993 := by decide
theorem test_pwm_get_freq_no_task : code (exec (.pwmGetFreq 0 true) (withModule (fresh .up) 0 0)) =
    some .rejected := by decide
theorem test_pwm_get_duty : see State.res0 (exec (.pwmGetDuty 0 1 false) (withModule busy 0 0)) =
    some 5001 := by decide
theorem test_pwm_get_duty_no_channel : code (exec (.pwmGetDuty 0 2 true) (withModule busy 0 0)) =
    some .rejected := by decide
theorem test_pwm_get_bounds : see (fun t => (t.res0, t.res1))
    (exec (.pwmGetBounds 0) (withModule (fresh .updown) 0 0)) = some (1145, 149999999) := by decide
theorem test_pwm_get_state_of_reset : see (fun t => (t.statusCode, t.res0, t.res1))
    (exec (.pwmGetState 5) (clocked 0 0)) = some (.ok, 0, 0) := by decide
theorem test_pwm_read_reg_active : see State.res0 (exec (.pwmReadReg 0 .tbprdA)
    (withModule { busy with tbprd := 7499 } 0 0)) = some 3571 := by decide

/-! ### Dead-band and Toggles (sections 2.4, 2.5) -/

theorem test_db_set_rise_half_up : module0 (fun x => (x.dbred, x.dbRiseNs))
    (exec (.dbSetRise 0) (withModule (fresh .up) 10 0)) = some (2, 10) := by decide
theorem test_db_set_fall_clamped : module0 (fun x => (x.dbfed, x.dbFallNs))
    (exec (.dbSetFall 0) (withModule (fresh .up) 0xFFFFFFFF 0)) = some (1023, 0xFFFFFFFF) := by decide
theorem test_db_get_rise : see State.res0 (exec (.dbGetRise 0 false)
    (withModule { fresh .up with dbred := 2, dbRiseNs := 10 } 0 0)) = some 13 := by decide
/-- 42_deadband_toggle.md R174: before any DB_SET_RISE set = 0 gives 0, at a clock of 0 Hz too. -/
theorem test_db_get_rise_unset : see State.res0 (exec (.dbGetRise 0 false)
    (withModule { fresh .up with tbclk := 0 } 0 0)) = some 0 := by decide
theorem test_db_get_fall_request : see State.res0 (exec (.dbGetFall 0 true)
    (withModule { fresh .up with dbfed := 1023, dbFallNs := 10000 } 0 0)) = some 10000 := by decide
/-- 00_scope.md R6: with `DB_BITS` = 4 a delay clamps at 15 ticks, and with `CTR_BITS` = 8 the slowest frequency of
a 1 MHz clock is `ceil(1000000 / 256)`. -/
theorem test_parameter_widths :
    module0 PwmModule.dbred (exec (.dbSetRise 0) { withModule (fresh .up) 1000 0 with
      params := { Params.default with dbBits := 4 } }) = some 15 ∧
    see State.res0 (exec (.pwmGetBounds 0) { withModule { fresh .up with tbclk := 1000000 } 0 0 with
      params := { Params.default with ctrBits := 8 } }) = some 3907 := by decide
theorem test_tgl_disable_returns_old : see (fun t => (t.res0, (t.pwmAt 0).dbctl))
    (exec (.tglDisable 0 .output1) (withModule { fresh .up with dbctl := 0b000011 } 0 0)) =
    some (1, 0b000001) := by decide
theorem test_tgl_enable : module0 PwmModule.tbctl (exec (.tglEnable 0 .phaseEnable true)
    (withModule (fresh .up) 0 0)) = some 0x0037 := by decide
theorem test_tgl_enable_false : module0 PwmModule.dbctl (exec (.tglEnable 0 .output0 false)
    (withModule { fresh .up with dbctl := 1 } 0 0)) = some 1 := by decide
theorem test_tgl_read : see State.res0 (exec (.tglRead 0 .chopperEnable)
    (withModule { fresh .up with chpEn := true } 0 0)) = some 1 := by decide

/-! ### Chopper (section 2.6) -/

theorem test_chp_set_freq : module0 PwmModule.chpFreq (exec (.chpSetFreq 0)
    (withModule (fresh .up) 18749999 0)) = some 1 := by decide
theorem test_chp_set_freq_too_low : code (exec (.chpSetFreq 0) (withModule (fresh .up) 2343749 0)) =
    some .rejected := by decide
theorem test_chp_set_duty_bound_goes_up : module0 PwmModule.chpDuty (exec (.chpSetDuty 0)
    (withModule (fresh .up) 1850 0)) = some 1 := by decide
theorem test_chp_set_duty_top : module0 PwmModule.chpDuty (exec (.chpSetDuty 0)
    (withModule (fresh .up) 10000 0)) = some 6 := by decide
theorem test_chp_set_pulse : module0 PwmModule.chpctl (exec (.chpSetPulse 0)
    (withModule { fresh .up with chpDuty := 3, chpFreq := 3 } 100 0)) = some 0x0362 := by decide
theorem test_chp_get_freq : see State.res0 (exec (.chpGetFreq 0 false)
    (withModule { fresh .up with chpFreq := 7 } 0 0)) = some 2343750 := by decide
theorem test_chp_get_duty : see State.res0 (exec (.chpGetDuty 0 false)
    (withModule { fresh .up with chpDuty := 6 } 0 0)) = some 8750 := by decide
theorem test_chp_get_pulse : see State.res0 (exec (.chpGetPulse 0 false)
    (withModule { fresh .up with oshtwth := 15 } 0 0)) = some 853 := by decide

/-! ### Synchronisation, phase, high resolution (section 2.7, P4) -/

theorem test_sync_set_event : module0 PwmModule.syncEvent (exec (.syncSetEvent 0 .input)
    (withModule (fresh .up) 0 0)) = some .input := by decide
theorem test_sync_get_event : see State.res0 (exec (.syncGetEvent 0) (withModule (fresh .up) 0 0)) =
    some 3 := by decide
theorem test_sync_is_synchronizing : see State.res0 (exec (.syncIsSynchronizing 0)
    (withModule { fresh .up with syncEvent := .input } 0 0)) = some 1 := by decide
theorem test_sync_synchronize_chain : see (fun t => (t.res0, t.history.take 2)) (exec (.syncSynchronize 0)
    ((withModule { busy with syncEvent := .input } 0 0).setPwm 1
      { busy with phsEn := true, tbphs := 150, phsDir := true })) =
    some (1, [.syncOut 0, .syncLoad 1 150 true]) := by decide
theorem test_sync_synchronize_disabled : see (fun t => (t.res0, t.history.length))
    (exec (.syncSynchronize 0) (withModule busy 0 0)) = some (0, 1) := by decide
theorem test_phs_set_clamped : module0 (fun x => (x.tbphs, x.phaseNs)) (exec (.phsSet 0)
    (withModule (fresh .up) 1000000 0)) = some (65535, 1000000) := by decide
theorem test_phs_set_locked : module0 (fun x => (x.tbphs, x.phaseNs)) (exec (.phsSet 0)
    (withModule { fresh .up with hrEn := true, tbphs := 150, phaseNs := 1000 } 2000 0)) =
    some (150, 1000) := by decide
theorem test_phs_get : see State.res0 (exec (.phsGet 0 false)
    (withModule { fresh .up with tbphs := 65535 } 0 0)) = some 436900 := by decide
theorem test_phs_set_dir : module0 PwmModule.tbctl (exec (.phsSetDir 0 true)
    (withModule (fresh .up) 0 0)) = some 0x2033 := by decide
theorem test_phs_get_dir : see State.res0 (exec (.phsGetDir 0)
    (withModule { fresh .up with phsDir := true } 0 0)) = some 1 := by decide
theorem test_hr_enable : module0 (fun x => (x.cmpahr, x.hrcnfg)) (exec (.hrEnable 0) (withModule busy 60 0)) =
    some (30, 0x3C01) := by decide
theorem test_hr_enable_too_large : code (exec (.hrEnable 0) (withModule busy 256 0)) =
    some .rejected := by decide
theorem test_hr_disable : module0 (fun x => (x.cmpahr, x.hrcnfg)) (exec (.hrDisable 0)
    (withModule { busy with hrEn := true, hrScale := 60, cmpahr := 30 } 0 0)) = some (0, 0x3C00) := by decide
theorem test_hr_is_enabled : see State.res0 (exec (.hrIsEnabled 0)
    (withModule { busy with hrEn := true } 0 0)) = some 1 := by decide
theorem test_pwm_get_resolution : see (fun t => (t.res0, t.res1)) (exec (.pwmGetResolution 0)
    (withModule busy 0 0)) = some (11, 3571) := by decide +kernel
theorem test_pwm_get_resolution_hr : see (fun t => (t.res0, t.res1)) (exec (.pwmGetResolution 0)
    (withModule { busy with hrEn := true, hrScale := 60 } 0 0)) = some (17, 214285) := by decide +kernel

/-! ### Event trigger (section 2.8) -/

theorem test_et_set_event : module0 PwmModule.etsel (exec (.etSetEvent 0 .soca 1)
    (withModule (fresh .up) 0 0)) = some 0x0900 := by decide
theorem test_et_set_event_unsupported : code (exec (.etSetEvent 0 .soca 3) (withModule (fresh .up) 0 0)) =
    some .rejected := by decide
theorem test_et_reset_event : module0 PwmModule.etsel (exec (.etResetEvent 0 .soca)
    (withModule { fresh .up with socSel := ⟨1, 0⟩, socEn := ⟨true, false⟩ } 0 0)) = some 0x0100 := by decide
theorem test_et_get_event : see State.res0 (exec (.etGetEvent 0 .socb)
    (withModule { fresh .up with socSel := ⟨1, 7⟩, socEn := ⟨false, true⟩ } 0 0)) = some 7 := by decide

/-! ### ADC sequencer (sections 2.9, 2.10) -/

theorem test_adc_construct : see (fun t => (t.adc.clock, t.res1)) (exec .adcConstruct (clocked 25000000 0)) =
    some (25000000, 0x0300) := by decide +kernel
theorem test_adc_construct_no_clock : code (exec .adcConstruct State.reset) = some .unusable := by decide
theorem test_adc_release_keeps_ram : see (fun t => (t.adc, t.sram)) (exec .adcRelease
    { withAdc boundAdc 0 0 with sram := [(0, 1), (1, 2)] }) =
    some (AdcState.reset, [(0, 1), (1, 2)]) := by decide
theorem test_adc_get_clock : see State.res0 (exec .adcGetClock (withAdc freshAdc 0 0)) =
    some 25000000 := by decide
theorem test_adc_register_task : adc id (exec .adcRegisterTask (withAdc freshAdc 0x00210402 3)) =
    some boundAdc := by decide
theorem test_adc_register_task_too_large : code (exec .adcRegisterTask (withAdc freshAdc 0x00284008 0)) =
    some .rejected := by decide
theorem test_adc_set_trigger : adc (fun a => (a.trigSrc, a.trigMod)) (exec (.adcSetTrigger 5 2)
    (withAdc freshAdc 0 0)) = some (.socb, 5) := by decide
theorem test_adc_set_trigger_software : adc (fun a => (a.trigSrc, a.trigMod)) (exec (.adcSetTrigger 3 0)
    (withAdc { freshAdc with trigSrc := .soca, trigMod := 2 } 0 0)) = some (.software, 0) := by decide
theorem test_adc_trigger : see (fun t => (t.adc.seqState, t.history.take 1)) (exec .adcTrigger
    (withAdc boundAdc 0 0)) = some (.converting, [.convStart .software]) := by decide
theorem test_adc_trigger_overrun : see (fun t => (t.adc.socOverrun, t.history.length)) (exec .adcTrigger
    (withAdc { boundAdc with seqState := .converting } 0 0)) = some (true, 1) := by decide

/-! ### Ring (section 2.11, P2, P3) -/

theorem test_adc_get_free_index_full : see State.res0 (exec .adcGetFreeIndex
    (withAdc { boundAdc with isFilled := true } 0 0)) = some 0xFFFFFFFF := by decide
theorem test_adc_get_full_index_empty : see State.res0 (exec .adcGetFullIndex (withAdc boundAdc 0 0)) =
    some 0xFFFFFFFF := by decide
theorem test_adc_set_full_is_free_resets : adc (fun a => (a.free, a.full)) (exec .adcSetFullIsFree
    (withAdc { boundAdc with free := 1 } 0 0)) = some (0, 0) := by decide
theorem test_adc_set_full_is_free_empty : code (exec .adcSetFullIsFree (withAdc boundAdc 0 0)) =
    some .rejected := by decide
theorem test_adc_is_filled : see State.res0 (exec .adcIsFilled
    (withAdc { boundAdc with isFilled := true } 0 0)) = some 1 := by decide
theorem test_adc_read_sample : see (fun t => (t.res0, t.faults)) (exec .adcReadSample
    { withAdc boundAdc 0 7 with sram := [(14, 0x31), (15, 0x01)], written := [7] }) =
    some (0x00000131, []) := by decide
theorem test_adc_read_sample_unwritten : see (fun t => (t.statusCode, t.faults, t.draws)) (exec .adcReadSample
    (withAdc boundAdc 1 7)) = some (.ok, [.unwrittenSample], 1) := by decide
theorem test_adc_get_status : see (fun t => (t.res0, t.res1)) (exec .adcGetStatus
    (withAdc { boundAdc with blockDone := true, dropped := true, socOverrun := true, isFilled := true } 0 0)) =
    some (0x00000078, 0x00010000) := by decide
theorem test_adc_clear_status : adc (fun a => (a.blockDone, a.dropped, a.socOverrun))
    (exec (.adcClearStatus 5)
      (withAdc { boundAdc with blockDone := true, dropped := true, socOverrun := true } 0 0)) =
    some (false, true, false) := by decide

/-! ### Environment steps and the window (P1 to P4, 20_memory.md R72) -/

/-- The ADC of program P3 on a full ring of two blocks, a conversion just done. -/
def fullAdc : AdcState :=
  { boundAdc with
    nSeq := 1
    isFilled := true
    seqState := .complete
    intFlag := true
    result := (Vector.replicate 16 0#16).set 0 5 |>.set 1 6 }

/-- A state with one input in front. -/
def given (x : Input) (s : State) : State := { s with inputs := [x] }

theorem test_ev_ctr_zero_loads : module0 (fun x => (x.tbprdA, x.cmpA))
    (step (given (.evCtr 0 .ctrZero) (withModule { busy with tbprd := 7499, cmp := ⟨5624, 5624⟩ } 0 0))) =
    some (7499, ⟨5624, 5624⟩) := by decide
theorem test_ev_ctr_soc_starts_a_pass : see State.history
    (step (given (.evCtr 0 .ctrZero)
      { withModule { busy with socSel := ⟨1, 0⟩, socEn := ⟨true, false⟩ } 0 0 with
        adc := { boundAdc with trigSrc := .soca } })) =
    some [.ctrEvent 0 .ctrZero, .shadowLoad 0, .soc 0 .soca, .convStart (.pwm 0 .soca)] := by decide
theorem test_ev_ctr_soc_overrun : see (fun t => (t.adc.socOverrun, t.history))
    (step (given (.evCtr 0 .ctrPrd)
      { withModule { busy with socSel := ⟨0, 2⟩, socEn := ⟨false, true⟩ } 0 0 with
        adc := { boundAdc with trigSrc := .socb, seqState := .complete, intFlag := true } })) =
    some (true, [.ctrEvent 0 .ctrPrd, .soc 0 .socb]) := by decide
theorem test_ev_syncin : see State.history (step (given .evSyncIn
    ((withModule { busy with syncEvent := .input } 0 0).setPwm 1
      { busy with phsEn := true, tbphs := 150, phsDir := true }))) =
    some [.syncOut 0, .syncLoad 1 150 true] := by decide
theorem test_ev_conv : adc (fun a => (a.result.toList.take 2, a.seqState, a.intFlag))
    (step (given (.evConv [0x100, 0x101]) (withAdc { boundAdc with seqState := .converting } 0 0))) =
    some ([0x100, 0x101], .complete, true) := by decide
theorem test_ev_capture_stores : see (fun t => (t.sram, t.written, t.adc.free, t.adc.full))
    (step (given .evCapture (withAdc fullAdc 0 0))) =
    some ([(0, 5), (1, 0), (2, 6), (3, 0)], [0, 1], 1, 1) := by decide
theorem test_ev_capture_drops_oldest : see (fun t => (t.adc.dropped, t.history))
    (step (given .evCapture (withAdc fullAdc 0 0))) =
    some (true, [.drop .oldest, .capture 0 0, .blockDone 0]) := by decide
theorem test_ev_capture_drops_newest : see (fun t => (t.adc.free, t.sram, t.history))
    (step (given .evCapture { withAdc fullAdc 0 0 with
      params := { Params.default with overflowPolicy := .dropNewest } })) =
    some (0, [], [.drop .newest]) := by decide
theorem test_read_status : see State.busRead (step (given (.hostRead 0x1C 4)
    { State.reset with statusCode := .unusable, statusOp := 0x12 })) = some (some 0x00001202) := by decide
theorem test_read_id : see State.busRead (step (given (.hostRead 0x20 4) State.reset)) =
    some (some 0x50410001) := by decide
theorem test_first_instruction : see State.statusWord (step (State.reset.withFetchWord 32 0x00000000)) =
    some 0 ∧ code (step (State.reset.withFetchWord 32 0x65000000)) = some .unusable := by decide

/-! ### Witnesses: states and operands that meet the hypotheses of the statements, each clause at its boundaries

A statement without hypotheses needs none. -/

/-- An ADC whose pass is complete: the capture engine may run. -/
def readyAdc : AdcState := { boundAdc with seqState := .complete, intFlag := true }

/-- The ready ADC with the last sequence of a block left. -/
def lastAdc : AdcState := { readyAdc with seqLeft := 1 }

theorem legal_of_adc (a : AdcState) (h : a.Legal Params.default) (hc : a.clock.toNat ≤ 150000000) :
    (withAdc a 0 0).Legal := by
  have hp : (clocked 0 0).params.Admitted := by decide
  have hd : (clocked 0 0).drvReady = true ↔ (clocked 0 0).sysclk ≠ 0#32 := by decide
  have hk : ∀ m : ModuleIndex, ((clocked 0 0).pwmAt m).st ≠ .uninit →
      (clocked 0 0).drvReady = true ∧ ((clocked 0 0).pwmAt m).tbclk.toNat ≤ (clocked 0 0).sysclk.toNat := by
    decide +kernel
  have hm : (clocked 0 0).ModulesLegal := by decide +kernel
  have hr : (clocked 0 0).MemoryLegal := by decide
  exact ⟨hp, ⟨hd, hk, fun _ => ⟨rfl, hc⟩⟩, hm, h, hr⟩

theorem legal_reset : State.reset.Legal :=
  ⟨by decide, by decide +kernel, by decide +kernel, by decide, by decide⟩

theorem witness_EncodeThenDecode : (Instr.pwmConstruct 15 2).WellFormed ∧ (Instr.adcSetTrigger 15 2).WellFormed := by
  decide
theorem witness_DecodeThenEncode : decode 0x16010001 = .ok (.pwmGetDuty 0 1 true) := rfl
theorem witness_IllegalWordsChangeNothing :
    opField 0x03000000 ∉ opcodes ∧ opField 0xFF000000 ∉ opcodes ∧
    ∃ r ∈ commandRows, r.opcode = opField 0x01000001 ∧
      (0x01000001#32 &&& r.mask) ≠ commandWord r.opcode 0 0 0 :=
  ⟨by decide, by decide, ⟨0x01#8, 0xFFFFFFFF#32, fun _ => .drvInit⟩,
    by simp [commandRows, driverRows], rfl, by decide⟩
theorem witness_StepRunsDecodedCommand :
    NextInput (given (.hostWrite 0 4 0x12020000) State.reset)
      (.hostWrite State.reset.params.blockBase 4 0x12020000) [] ∧
    decode 0x12020000 = .ok (.pwmStart 0 2) ∧ decode 0x7F000000 = .error .reservedOpcode ∧
    decodeTableWord 32 0x6C000007 = some (.adcClearStatus 7) ∧ decodeTableWord 32 0x6C000008 = none :=
  ⟨rfl, rfl, rfl, rfl, rfl⟩
theorem witness_WindowAccessResults :
    (0 < 16 ∧ NextInput (given (.hostRead 0 4) State.reset)
      (.hostRead (State.reset.params.blockBase + 4 * 0) 4) []) ∧
    (15 < 16 ∧ NextInput (given (.hostRead 60 4) State.reset)
      (.hostRead (State.reset.params.blockBase + 4 * 15) 4) []) ∧
    (1 ≤ 1 ∧ NextInput (given (.hostWrite 4 4 9) State.reset)
      (.hostWrite (State.reset.params.blockBase + 4 * 1) 4 9) []) ∧
    (1 ≤ 15 ∧ NextInput (given (.hostWrite 60 4 9) State.reset)
      (.hostWrite (State.reset.params.blockBase + 4 * 15) 4 9) []) :=
  ⟨⟨by decide, rfl⟩, ⟨by decide, rfl⟩, ⟨by decide, rfl⟩, ⟨by decide, rfl⟩⟩
theorem witness_UnadmittedAccessIsStuck :
    (¬(4 = 4 ∧ ∃ k, k < 16 ∧ 64 = State.reset.params.blockBase + 4 * k)) ∧
    (¬(2 = 4 ∧ ∃ k, k < 16 ∧ 0 = State.reset.params.blockBase + 4 * k)) ∧
    NextInput (given (.hostWrite 64 4 0) State.reset) (.hostWrite 64 4 0) [] ∧
    NextInput (given (.hostRead 0 2) State.reset) (.hostRead 0 2) [] := by
  refine ⟨?_, by simp, rfl, rfl⟩
  rintro ⟨-, k, hk, h⟩
  simp only [State.reset, State.resetWith, Params.default] at h
  omega
theorem witness_CommandEndsInOneFinish :
    exec .nop State.reset = .next (State.reset.finish (encode .nop) .ok) := rfl
theorem witness_FailedCommandChangesNothing :
    exec .drvInit State.reset = .next (State.reset.finish (encode .drvInit) .rejected) ∧
    (State.reset.finish (encode .drvInit) .rejected).statusCode ≠ .ok := ⟨rfl, by decide⟩
theorem witness_CommandsCompleteInLegalStates : State.reset.Legal ∧ (withAdc boundAdc 0 0).Legal :=
  ⟨legal_reset, legal_of_adc _ (by decide) (by decide)⟩
theorem witness_UnusableObjectIsReported :
    (checkedModule (.pwmStop 6) = some 6 ∧
      ¬((6 : ModuleIndex).toNat < State.reset.params.pwmModules ∧ (State.reset.pwmAt 6).st ≠ .uninit)) ∧
    (checkedModule (.pwmStop 5) = some 5 ∧
      ¬((5 : ModuleIndex).toNat < State.reset.params.pwmModules ∧ (State.reset.pwmAt 5).st ≠ .uninit)) ∧
    checksAdc .adcTrigger ∧ checksAdc (.adcClearStatus 0) ∧ checksAdc (.adcSetTrigger 0 2) ∧
    State.reset.adc.st ≠ .constructed :=
  ⟨⟨rfl, by decide⟩, ⟨rfl, by decide⟩, .inl (by decide), .inr (.inl ⟨0, rfl⟩),
    .inr (.inr ⟨0, 2, by decide, rfl⟩), by decide⟩
theorem witness_ResetIsLegalAndQuiet :
    Params.default.Admitted ∧
    Params.Admitted { Params.default with
      blockBase := 64, pwmModules := 1, pwmChannels := 1, ctrBits := 1, dbBits := 1, phsBits := 1,
      adcMaxChannels := 1, adcResults := 2 } ∧
    Params.Admitted { Params.default with
      pwmModules := 16, ctrBits := 32, dbBits := 32, phsBits := 32, hrBits := 32, adcResultBits := 16 } :=
  ⟨by decide, by decide, by decide⟩
theorem witness_StepKeepsMemoryCanonical :
    (withAdc readyAdc 0 0).MemoryCanonical ∧
    see State.written (step (given .evCapture (withAdc readyAdc 0 0))) = some [0, 1] := by decide
theorem witness_StepKeepsLegal :
    (given .evCapture (withAdc readyAdc 0 0)).Legal ∧
    ∃ t, step (given .evCapture (withAdc readyAdc 0 0)) = .next t :=
  ⟨legal_of_adc readyAdc (by decide) (by decide), _, rfl⟩
theorem witness_HistoryFaultsAndClockAreKept :
    (clocked 7 0).drvReady = true ∧
    ∃ t, step ((clocked 7 0).withFetchWord 32 0x01000000) = .next t := ⟨rfl, _, rfl⟩
theorem witness_EnvironmentLeavesTheWindow :
    NextInput (given (.evCtr 0 .ctrZero) (withModule busy 0 0)) (.evCtr 0 .ctrZero) [] ∧
    (∀ addr bytes v, Input.evCtr 0 .ctrZero ≠ .hostWrite addr bytes v) ∧
    ∃ t, step (given (.evCtr 0 .ctrZero) (withModule busy 0 0)) = .next t :=
  ⟨rfl, fun _ _ _ h => (by cases h), _, rfl⟩
theorem witness_ModulesAreIsolated :
    ∃ t, step ((withModule busy 0 0).withFetchWord 32 0x11000000) = .next t ∧
      t.pwmAt 0 ≠ ((withModule busy 0 0).withFetchWord 32 0x11000000).pwmAt 0 :=
  ⟨_, rfl, by decide⟩
theorem witness_ActiveRegistersLoadOnlyAtZeroOrStart :
    ∃ t, step (given (.evCtr 0 .ctrZero) (withModule { busy with tbprd := 7499 } 0 0)) = .next t ∧
      activeRegisters (t.pwmAt 0) ≠
        activeRegisters ((given (.evCtr 0 .ctrZero) (withModule { busy with tbprd := 7499 } 0 0)).pwmAt 0) :=
  ⟨_, rfl, by decide⟩

/-! #### The formulas -/

theorem witness_DividerFindsTheBestRate : divSearch 10 3 [1, 2] [1, 3] = some ⟨3, 0, 1⟩ := by decide
theorem witness_DividerFailsExactly :
    Params.Table 3 Params.default.pwmCoarse ∧ Params.Table 3 Params.default.pwmFine ∧
    Params.default.pwmCoarse.getLast? = some 128 ∧ Params.default.pwmFine.getLast? = some 14 := by decide
theorem witness_BoundsAreTheLegalPeriods : 1 ≤ 1 ∧
    minFrequency 16 .up 150000000 ≤ 2289 ∧ 149999999 ≤ maxFrequency 150000000 := by decide
theorem witness_CompareMeetsTheDuty :
    (1 ≤ 1 ∧ 1 ≤ 2 ^ 16 - 1 ∧ 0 ≤ 10000 ∧ (1 + 1) * 0 < 2 ^ 16 * 10000) ∧
    (1 ≤ 65535 ∧ 65535 ≤ 2 ^ 16 - 1 ∧ 9999 ≤ 10000 ∧ (65535 + 1) * 9999 < 2 ^ 16 * 10000) := by decide
theorem witness_HighResolutionIsTheFraction :
    (1 ≤ 1 ∧ 9999 ≤ 10000 ∧ (65535 + 1) * 9999 < 2 ^ 16 * 10000) ∧
    (1 ≤ 255 ∧ 10000 ≤ 10000 ∧ 2 ^ 16 * 10000 ≤ (65535 + 1) * 10000) := by decide
theorem witness_DeadBandReadbackBound :
    ((withModule (fresh .up) 6823 0).usable 0 = true ∧ (0 < 150000000 ∧
      (2 * (6823 * 150000000) + 1000000000) / 2000000000 ≤ 2 ^ Params.default.dbBits - 1)) ∧
    ((withModule { fresh .up with tbclk := 2 } 0xFFFFFFFF 0).usable 0 = true ∧
      (2 * (4294967295 * 2) + 1000000000) / 2000000000 = 9 ∧ ticksToNs 9 2 = some 4500000000) ∧
    Params.default.dbBits ≤ 32 := by decide
theorem witness_ChopperCodesQuantize :
    chopperFreqCode 150000000 8 18749999 = some 1 ∧ chopperFreqCode 150000000 8 2343749 = none ∧
    Params.default.chpDutyBounds.Pairwise (· < ·) ∧ Params.default.chpDutyBounds[5]? = some 8125 := by decide

/-! #### Results of commands -/

theorem witness_unusable_module :
    State.reset.usable 0 = false ∧ (clocked 0 0).usable 6 = false ∧ (withModule busy 0 0).usable 15 = false := by
  decide
theorem witness_unusable_adc : State.reset.adc.st ≠ .constructed ∧ (2 : BitVec 2) ≠ 3 := by decide

theorem witness_DriverCommandResults :
    (State.reset.drvReady = false ∧ { State.reset with arg0 := 1 }.arg0 ≠ 0) ∧
    State.reset.arg0 = 0 ∧ (clocked 0 0).drvReady = true ∧
    divSearch 150000000 150000000 Params.default.pwmCoarse Params.default.pwmFine = some ⟨150000000, 0, 0⟩ ∧
    divSearch 0 150000000 Params.default.pwmCoarse Params.default.pwmFine = none ∧
    divSearch 150000000 25000000 Params.default.adcCoarse Params.default.adcFine = some ⟨25000000, 0, 3⟩ ∧
    divSearch 150000000 0 Params.default.adcCoarse Params.default.adcFine = none :=
  ⟨by decide, rfl, rfl, by decide +kernel, by decide, by decide +kernel, by decide⟩
theorem witness_PwmLifeCycleResults :
    Mode.ofBits 2 = some .updown ∧
    ((5 : ModuleIndex).toNat < (clocked 150000000 0).params.pwmModules ∧
      ((clocked 150000000 0).pwmAt 5).st = .uninit ∧ (clocked 150000000 0).drvReady = true ∧
      divSearch 150000000 150000000 Params.default.pwmCoarse Params.default.pwmFine =
        some ⟨150000000, 0, 0⟩) ∧
    (clocked 0 0).params.pwmModules ≤ (6 : ModuleIndex).toNat ∧
    ((withModule busy 0 0).pwmAt 0).st ≠ .uninit ∧ State.reset.drvReady = false ∧
    divSearch 150000000 0 Params.default.pwmCoarse Params.default.pwmFine = none ∧
    (withModule busy 0 0).usable 0 = true ∧ ((withModule busy 0 0).pwmAt 0).st = .running ∧
    (withModule (fresh .up) 0 0).usable 0 = true ∧ ((withModule (fresh .up) 0 0).pwmAt 0).st ≠ .running :=
  ⟨rfl, ⟨by decide, rfl, rfl, by decide +kernel⟩, by decide, by decide, rfl, by decide, rfl, rfl, rfl, by decide⟩
theorem witness_TaskCommandResults :
    (withModule (fresh .up) 2289 0x27102710).usable 0 = true ∧
    ((2 : BitVec 4).toNat ≤ 2 ∧ minFrequency 16 .up 150000000 ≤ 2289 ∧ 2289 ≤ maxFrequency 150000000 ∧
      (0x27102710#32).extractLsb' 0 16 = 10000 ∧ (0x27102710#32).extractLsb' 16 16 = 10000) ∧
    ¬(3 : BitVec 4).toNat ≤ 2 ∧ ¬minFrequency 16 .up 150000000 ≤ 2288 := by decide
theorem witness_PwmTaskGetterResults :
    (withModule busy 0 0).usable 0 = true ∧ (fresh .up).taskValid = false ∧ busy.taskValid = true ∧
    busy.taskN.toNat ≤ (2 : BitVec 4).toNat ∧ (1 : BitVec 4).toNat < 2 ∧ (1 : BitVec 4).toNat < busy.taskN.toNat ∧
    busy.mode ≠ .updown ∧ { busy with mode := .updown }.mode = .updown ∧ 1 ≤ busy.tbprd.toNat ∧
    busy.mode ≠ .down ∧ { busy with mode := .down }.mode = .down := by decide
theorem witness_PwmStatusGetterResults :
    (5 : ModuleIndex).toNat < State.reset.params.pwmModules ∧
    State.reset.params.pwmModules ≤ (6 : ModuleIndex).toNat ∧
    (withModule busy 0 0).usable 0 = true ∧ 1 ≤ ((withModule busy 0 0).pwmAt 0).tbclk.toNat := by decide
theorem witness_DeadBandResults :
    (withModule busy 0 0).usable 0 = true ∧ 0 < busy.tbclk.toNat ∧
    (2 * (1023 * 1000000000) + busy.tbclk.toNat) / (2 * busy.tbclk.toNat) < 2 ^ 32 ∧
    (withModule { fresh .up with tbclk := 0 } 0 0).usable 0 = true ∧ (fresh .up).dbred = 0 ∧ (fresh .up).dbfed = 0 :=
  by decide
theorem witness_ToggleResults : (withModule busy 0 0).usable 0 = true := rfl
theorem witness_ToggleWritesOneBit : busy.toggle .output0 = false ∧ PwmReg.tbprd ≠ .dbctl ∧
    PwmReg.tbprd ≠ .chpctl ∧ PwmReg.tbprd ≠ .tbctl ∧ 5 < 6 ∧ (10 : Nat) ≠ 0 ∧ (13 : Nat) ≠ 2 := by decide
theorem witness_ToggleRestoreIdiom : (withModule busy 0 0).usable 0 = true := rfl
theorem witness_ChopperSetterResults :
    (withModule busy 0 0).usable 0 = true ∧ chopperFreqCode 150000000 8 2343750 = some 7 ∧
    2343749 < 150000000 / (8 * 8) ∧ (10000#32).toNat ≤ 10000 ∧ 10000 < (10001#32).toNat := by decide
theorem witness_ChopperGetterResults :
    (withModule busy 0 0).usable 0 = true ∧ 0 < (withModule busy 0 0).sysclk.toNat ∧
    (2 * ((15 + 1) * 8 * 1000000000) + 150000000) / (2 * 150000000) < 2 ^ 32 := by decide
theorem witness_SyncCommandResults :
    (withModule busy 0 0).usable 0 = true ∧ busy.syncEvent = .disable ∧
    { busy with syncEvent := .edge }.syncEvent ≠ .disable := by decide
theorem witness_SyncChainPassesAndStops :
    (1 ≤ (withModule busy 0 0).params.pwmModules ∧ NextInput (given .evSyncIn State.reset) .evSyncIn [] ∧
      (withModule busy 0 0).params.pwmModules ≤ (5 : ModuleIndex).toNat + 1 ∧
      (4 : ModuleIndex).toNat + 1 < (withModule busy 0 0).params.pwmModules ∧
      ¬((withModule busy 0 0).pwmAt 1).phsEn = true) ∧
    (0 : ModuleIndex).toNat < (1 : ModuleIndex).toNat ∧
    (1 : ModuleIndex).toNat < ((withModule busy 0 0).setPwm 1 { busy with phsEn := true }).params.pwmModules ∧
    (withModule busy 0 0).params.pwmModules ≤ 16 ∧
    (∀ k : ModuleIndex, (0 : ModuleIndex).toNat < k.toNat → k.toNat ≤ (1 : ModuleIndex).toNat →
      (((withModule busy 0 0).setPwm 1 { busy with syncEvent := .input }).pwmAt k).st ≠ .uninit ∧
      (((withModule busy 0 0).setPwm 1 { busy with syncEvent := .input }).pwmAt k).syncEvent = .input) ∧
    (((withModule busy 0 0).setPwm 1 { busy with phsEn := true }).pwmAt 1).phsEn = true ∧
    ((0 : ModuleIndex).toNat < (1 : ModuleIndex).toNat ∧ (1 : ModuleIndex).toNat < (2 : ModuleIndex).toNat ∧
      ((withModule busy 0 0).pwmAt 1).st = .uninit) := by decide +kernel
theorem witness_PhaseResults :
    (withModule { busy with hrEn := true } 0 0).usable 0 = true ∧ { busy with hrEn := true }.hrEn = true ∧
    (withModule busy 0 0).usable 0 = true ∧ busy.hrEn = false ∧ busy.tbphs = 0 ∧ 0 < busy.tbclk.toNat ∧
    (2 * (65535 * 1000000000) + busy.tbclk.toNat) / (2 * busy.tbclk.toNat) < 2 ^ 32 := by decide
/-- A task of 1 Hz with high resolution on, whose resolution does not fit `RES1`. -/
def slowTask : PwmModule := { busy with taskFreq := 1, hrEn := true, hrScale := 254 }
theorem witness_HighResolutionResults :
    (withModule busy 255 0).usable 0 = true ∧ 255 < (256#32).toNat ∧
    (1#32 ≠ 0 ∧ (1#32).toNat ≤ 255) ∧ (255#32 ≠ 0 ∧ (255#32).toNat ≤ 255) ∧ (fresh .up).taskValid = false ∧
    busy.taskValid = true ∧ 1 ≤ busy.taskFreq.toNat ∧
    1 ≤ busy.tbclk.toNat * 1 / busy.taskFreq.toNat ∧ busy.tbclk.toNat * 1 / busy.taskFreq.toNat < 2 ^ 32 ∧
    ((withModule slowTask 0 0).usable 0 = true ∧ slowTask.taskValid = true ∧ slowTask.hrEn = true ∧
      2 ^ 32 ≤ slowTask.tbclk.toNat * slowTask.hrScale.toNat / slowTask.taskFreq.toNat) := by decide
theorem witness_EventTriggerResults :
    (withModule busy 0 0).usable 0 = true ∧ ((7 : BitVec 3) ≠ 0 ∧ (7 : BitVec 3) ≠ 3) ∧
    ((1 : BitVec 3) ≠ 0 ∧ (1 : BitVec 3) ≠ 3) := by decide
theorem witness_AdcLifeCycleResults :
    (clocked 25000000 0).adc.st = .uninit ∧ (clocked 25000000 0).drvReady = true ∧
    divSearch 150000000 25000000 Params.default.adcCoarse Params.default.adcFine =
      some ⟨25000000, 0, 3⟩ ∧
    (withAdc freshAdc 0 0).adc.st = .constructed ∧ State.reset.drvReady = false :=
  ⟨rfl, rfl, by decide +kernel, rfl, rfl⟩
theorem witness_AdcRegisterTaskResult :
    (withAdc freshAdc 0x00282008 0).adc.st = .constructed ∧ freshAdc.bound = false ∧ boundAdc.bound = true ∧
    adcTaskValid Params.default 0x00282008 = true ∧ adcTaskValid Params.default 0x00284008 = false ∧
    adcTaskValid Params.default 0x00210402 = true ∧ adcTaskValid Params.default 0x00290402 = false := by decide
theorem witness_AdcTriggerResults :
    (withAdc boundAdc 0 0).adc.st = .constructed ∧ (5 : ModuleIndex).toNat < Params.default.pwmModules ∧
    Params.default.pwmModules ≤ (6 : ModuleIndex).toNat ∧ freshAdc.bound = false ∧ boundAdc.bound = true ∧
    boundAdc.seqState = .idle ∧ readyAdc.bound = true ∧ readyAdc.seqState ≠ .idle := by decide

/-! #### Environment steps, ring and capture -/

theorem witness_CounterEventLoadsAtZero :
    NextInput (given (.evCtr 0 .ctrZero) (withModule busy 0 0)) (.evCtr 0 .ctrZero) [] ∧
    ((0 : ModuleIndex).toNat < Params.default.pwmModules ∧ ((withModule busy 0 0).pwmAt 0).st = .running) ∧
    ¬((1 : ModuleIndex).toNat < Params.default.pwmModules ∧ ((withModule busy 0 0).pwmAt 1).st = .running) :=
  ⟨rfl, by decide, by decide⟩
theorem witness_CounterEventRecordsInOrder :
    NextInput (given (.evCtr 0 .ctrPrd) (withModule busy 0 0)) (.evCtr 0 .ctrPrd) [] ∧
    (0 : ModuleIndex).toNat < Params.default.pwmModules ∧ ((withModule busy 0 0).pwmAt 0).st = .running :=
  ⟨rfl, by decide, rfl⟩
theorem witness_SocStartsAPass :
    ({ boundAdc with trigSrc := .socb }.st = .constructed ∧ boundAdc.bound = true ∧ boundAdc.trigMod = 0 ∧
      { boundAdc with trigSrc := .socb }.trigSrc = .socb ∧ boundAdc.seqState = .idle) ∧
    readyAdc.seqState ≠ .idle ∧ boundAdc.trigSrc ≠ .soca := by decide
theorem witness_ConversionWritesTheResults :
    NextInput (given (.evConv [0, 4095]) (withAdc { boundAdc with seqState := .converting } 0 0))
      (.evConv [0, 4095]) [] ∧
    (boundAdc.st = .constructed ∧ boundAdc.bound = true) ∧ boundAdc.seqState ≠ .converting ∧
    [0#16, 4095#16].length = boundAdc.nChan.toNat * boundAdc.nRes.toNat ∧
    (0#16).toNat < 2 ^ 12 ∧ (4095#16).toNat < 2 ^ 12 ∧ ¬(4096#16).toNat < 2 ^ 12 :=
  ⟨rfl, by decide⟩
theorem witness_CaptureWithoutStoring :
    NextInput (given .evCapture (withAdc fullAdc 0 0)) .evCapture [] ∧
    ¬(boundAdc.st = .constructed ∧ boundAdc.intFlag = true) ∧
    ({ freshAdc with intFlag := true }.st = .constructed ∧ { freshAdc with intFlag := true }.bound = false) ∧
    (fullAdc.st = .constructed ∧ fullAdc.intFlag = true ∧ fullAdc.bound = true ∧ fullAdc.seqLeft = 0 ∧
      fullAdc.isFilled = true ∧
      { Params.default with overflowPolicy := .dropNewest }.overflowPolicy = .dropNewest) :=
  ⟨rfl, by decide⟩
theorem witness_CaptureStoresTheSequence :
    (given .evCapture (withAdc readyAdc 0 0)).Legal ∧
    NextInput (given .evCapture (withAdc readyAdc 0 0)) .evCapture [] ∧
    Captures (given .evCapture (withAdc readyAdc 0 0)) ∧
    0 < readyAdc.nChan.toNat * readyAdc.nRes.toNat :=
  ⟨legal_of_adc readyAdc (by decide) (by decide), rfl, by decide, by decide⟩
theorem witness_CapturePublishesTheLastSequence :
    (given .evCapture (withAdc lastAdc 0 0)).Legal ∧
    NextInput (given .evCapture (withAdc lastAdc 0 0)) .evCapture [] ∧
    Captures (given .evCapture (withAdc lastAdc 0 0)) ∧
    leftBefore lastAdc = 1 ∧ leftBefore readyAdc ≠ 1 ∧ lastAdc.isFilled = false ∧
    leftBefore fullAdc = 1 ∧ fullAdc.isFilled = true ∧ (withAdc fullAdc 0 0).Legal :=
  ⟨legal_of_adc lastAdc (by decide) (by decide), rfl, by decide, by decide, by decide, rfl, by decide, rfl,
    legal_of_adc fullAdc (by decide) (by decide)⟩
theorem witness_RingMutatorsCountBlocks :
    (boundAdc.free.toNat < boundAdc.nBlocks.toNat ∧ boundAdc.full.toNat < boundAdc.nBlocks.toNat) ∧
    (fullAdc.free.toNat < fullAdc.nBlocks.toNat ∧ fullAdc.full.toNat < fullAdc.nBlocks.toNat ∧
      fullAdc.free = fullAdc.full ∧ fullAdc.ringEmpty = false) := by decide
theorem witness_RingCommandResults :
    (withAdc boundAdc 0 0).adc.st = .constructed ∧ freshAdc.bound = false ∧ boundAdc.bound = true ∧
    (boundAdc.isFilled = false ∧ boundAdc.free = boundAdc.full) ∧ fullAdc.isFilled = true := by decide
theorem witness_ReadSampleResult :
    (withAdc boundAdc 0 0).adc.st = .constructed ∧ boundAdc.bound = true ∧
    boundAdc.nBlocks.toNat ≤ (2#32).toNat ∧
    4 * (1 * 2) ≤ (8#32).toNat ∧ ((1#32).toNat < boundAdc.nBlocks.toNat ∧ (7#32).toNat < 4 * (1 * 2) ∧
      1 * 8 + 7 < Params.default.adcBufWords) ∧
    (15 ∈ [15] ∧ Memory.readHalf [(30, 0x31), (31, 0x01)] 15 = some 0x0131) ∧ 15 ∉ ([] : List Nat) := by decide
theorem witness_AdcStatusResults : (withAdc boundAdc 0 0).adc.st = .constructed := rfl
theorem witness_UnstatedResultsAreFreeValues :
    (withModule { busy with tbclk := 1, dbred := 1023, dbfed := 1023, tbphs := 65535 } 0 0).usable 0 = true ∧
    2 ^ 32 ≤ (2 * (1023 * 1000000000) + 1) / (2 * 1) ∧
    2 ^ 32 ≤ (2 * ((15 + 1) * 8 * 1000000000) + 1) / (2 * 1) ∧
    (busy.taskValid = true ∧ { busy with mode := .updown, tbprd := 0 }.tbprd.toNat = 0) ∧
    ({ busy with tbclk := 0 }.tbclk = 0 ∧ { busy with tbclk := 0, dbred := 1 }.dbred.toNat ≠ 0) ∧
    (busy.taskFreq ≠ 0 ∧ { busy with tbclk := 1 }.tbclk.toNat * 1 < busy.taskFreq.toNat) ∧
    { busy with taskFreq := 0 }.taskFreq = 0 ∧
    ((withAdc boundAdc 0 0).adc.st = .constructed ∧ boundAdc.bound = true ∧
      (0#32).toNat < boundAdc.nBlocks.toNat ∧ (0#32).toNat < 4 * (1 * 2)) ∧
    (0 < Params.default.adcBufWords ∧ 0 ∈ [0] ∧ Memory.readHalf [] 0 = none) ∧
    { Params.default with adcBufWords := 0 }.adcBufWords ≤ 0 := by decide

end Sys2Proof.Tests
end

section
/-! PROOF. What one step can do, said once: a step is a chain of elementary changes, each of them a change of the
clock table, of one module, of the ADC or of the sample RAM, or no change of these at all (`Quiet`). An invariant of
the block is then proved change by change. -/

namespace Sys2Proof.Machine

/-! ### Elementary changes -/

/-- The clock table, the modules, the ADC, the sample RAM and the parameters stand as they were; the history and the
fault set lose nothing. The window, the inputs and the model's own counters may change. -/
structure Quiet (s t : State) : Prop where
  history : s.history <+: t.history := by exact List.prefix_rfl
  faults : s.faults ⊆ t.faults := by exact List.Subset.refl _
  params : t.params = s.params := by rfl
  drvReady : t.drvReady = s.drvReady := by rfl
  sysclk : t.sysclk = s.sysclk := by rfl
  pwm : t.pwm = s.pwm := by rfl
  adc : t.adc = s.adc := by rfl
  sram : t.sram = s.sram := by rfl
  written : t.written = s.written := by rfl

/-- What a step of a block in state `s` can make of a module `x`. The fields no invariant speaks of are one case,
`options`. -/
inductive ModuleChange (s : State) (x : PwmModule) : PwmModule → Prop where
  | construct (md : Mode) (tgt : Nat) (r : DivResult) (ready : s.drvReady = true)
      (found : pwmDivide s.params s.sysclk.toNat tgt = some r) : ModuleChange s x (.construct md r)
  | release : ModuleChange s x .reset
  | options (y : PwmModule) (live : x.st ≠ .uninit)
      (same : y =
        { x with
          dbctl := y.dbctl
          chpFreqReq := y.chpFreqReq
          chpPulseReq := y.chpPulseReq
          chpEn := y.chpEn
          oshtwth := y.oshtwth
          chpFreq := y.chpFreq
          syncEvent := y.syncEvent
          phsDir := y.phsDir
          phsEn := y.phsEn }) : ModuleChange s x y
  | chopperDuty (req : Half) (d : Nat) (live : x.st ≠ .uninit) :
      ModuleChange s x
        { x with chpDutyReq := req, chpDuty := BitVec.ofNat 3 (chopperDutyCode s.params.chpDutyBounds d) }
  | riseDelay (ns : Word) (live : x.st ≠ .uninit) :
      ModuleChange s x
        { x with dbRiseNs := ns, dbred := BitVec.ofNat 32 (nsToTicks ns.toNat x.tbclk.toNat s.params.dbBits) }
  | fallDelay (ns : Word) (live : x.st ≠ .uninit) :
      ModuleChange s x
        { x with dbFallNs := ns, dbfed := BitVec.ofNat 32 (nsToTicks ns.toNat x.tbclk.toNat s.params.dbBits) }
  | phase (ns : Word) (live : x.st ≠ .uninit) :
      ModuleChange s x
        { x with phaseNs := ns, tbphs := BitVec.ofNat 32 (nsToTicks ns.toNat x.tbclk.toNat s.params.phsBits) }
  | enableHr (k : Nat) (live : x.st ≠ .uninit) (pos : 1 ≤ k) (small : k ≤ 255) :
      ModuleChange s x (x.enableHr s.params k)
  | disableHr (live : x.st ≠ .uninit) : ModuleChange s x { x with hrEn := false, cmpahr := 0#32 }
  | enableSoc (line : Soc) (e : BitVec 3) (live : x.st ≠ .uninit) (supported : (CtrEvent.ofCode e).isSome) :
      ModuleChange s x { x with socSel := x.socSel.setSoc line e, socEn := x.socEn.setSoc line true }
  | disableSoc (line : Soc) (live : x.st ≠ .uninit) :
      ModuleChange s x { x with socEn := x.socEn.setSoc line false }
  | task (n : BitVec 4) (f : Word) (d0 d1 : Half) (live : x.st ≠ .uninit)
      (accepted : x.isTask s.params n f d0 d1 = true) : ModuleChange s x (x.writeTask s.params n f d0 d1)
  | start (n : BitVec 4) (f : Word) (d0 d1 : Half) (live : x.st ≠ .uninit)
      (accepted : x.isTask s.params n f d0 d1 = true) :
      ModuleChange s x { (x.writeTask s.params n f d0 d1).shadowLoad with st := .running }
  | stop (live : x.st ≠ .uninit) : ModuleChange s x { x with st := .stopped }
  | shadowLoad (live : x.st ≠ .uninit) : ModuleChange s x x.shadowLoad

/-- What a step of a block in state `s` can make of its ADC `a`, piece by piece. -/
inductive AdcChange (s : State) (a : AdcState) : AdcState → Prop where
  | construct (tgt : Nat) (r : DivResult) (ready : s.drvReady = true)
      (found : adcDivide s.params s.sysclk.toNat tgt = some r) :
      AdcChange s a
        { AdcState.reset with
          st := .constructed
          clock := BitVec.ofNat 32 r.achieved
          coarse := BitVec.ofNat 3 r.ci
          fine := BitVec.ofNat 4 r.fi }
  | release : AdcChange s a .reset
  | bindTask (dims list : Word) (live : a.st = .constructed) (unbound : a.bound = false)
      (valid : adcTaskValid s.params dims = true) : AdcChange s a (a.bindTask dims list)
  | trigger (src : TrigSrc) (m : ModuleIndex) (live : a.st = .constructed) :
      AdcChange s a { a with trigSrc := src, trigMod := m }
  | sticky (done dropped overrun : Bool) (live : a.st = .constructed) :
      AdcChange s a { a with blockDone := done, dropped := dropped, socOverrun := overrun }
  | startPass (live : a.st = .constructed) (bound : a.bound = true) (idle : a.seqState = .idle) :
      AdcChange s a { a with seqState := .converting }
  | completePass (result : Vector Half Config.resultSlots) (busy : a.converting = true) :
      AdcChange s a { a with result := result, seqState := .complete, intFlag := true }
  | resetSequencer (live : a.st = .constructed) : AdcChange s a { a with seqState := .idle, intFlag := false }
  | beginBlock (live : a.st = .constructed) (policy : a.isFilled = true → s.params.overflowPolicy ≠ .dropNewest) :
      AdcChange s a { a with seqLeft := a.nSeq }
  | countSequence (live : a.st = .constructed) (left : 1 ≤ a.nSeq.toNat → a.seqLeft ≠ 0#8) :
      AdcChange s a { a with seqLeft := a.seqLeft - 1#8 }
  | publish (live : a.st = .constructed) (last : a.seqLeft = 0#8) : AdcChange s a a.setFreeIsFull
  | free (live : a.st = .constructed) : AdcChange s a (a.setFullIsFree s.params)

/-- An elementary change of the block. -/
inductive Change (s : State) : State → Prop where
  | quiet {t : State} (h : Quiet s t) : Change s t
  | clock (rate : Word) (unset : s.drvReady = false) (pos : rate ≠ 0#32) :
      Change s { s with sysclk := rate, drvReady := true }
  | slot (m : ModuleIndex) {x : PwmModule} (inRange : m.toNat < s.params.pwmModules)
      (h : ModuleChange s (s.pwmAt m) x) : Change s (s.setPwm m x)
  | adc {a : AdcState} (h : AdcChange s s.adc a) : Change s { s with adc := a }
  | clearWritten : Change s s.clearWritten
  | sampleWrites (i : Nat) (vs : List Half) (inside : i + vs.length ≤ s.params.adcBufWords) :
      Change s (s.sampleWrites i vs)

/-- A chain of elementary changes. -/
abbrev Changes : State → State → Prop := Relation.ReflTransGen Change

/-- What every elementary change keeps, every chain of them keeps. -/
theorem Changes.keeps {P : State → Prop} (hP : ∀ {s t}, Change s t → P s → P t) {s t : State} (h : Changes s t)
    (hs : P s) : P t := by
  induction h with
  | refl => exact hs
  | tail _ hc ih => exact hP hc ih

/-! ### Quiet operations -/

section
variable (s : State)

theorem quiet_setRes0 (v : Word) : Quiet s (s.setRes0 v) := {}

theorem quiet_setRes1 (v : Word) : Quiet s (s.setRes1 v) := {}

theorem quiet_setRes0Nat (v : Option Nat) : Quiet s (s.setRes0Nat v) := by
  rw [State.setRes0Nat_eq]; exact {}

theorem quiet_setRes1Nat (v : Option Nat) : Quiet s (s.setRes1Nat v) := by
  rw [State.setRes1Nat_eq]; exact {}

theorem quiet_setRes0Readback (x t clk : Nat) : Quiet s (s.setRes0Readback x t clk) := by
  rw [State.setRes0Readback_eq]; exact {}

theorem quiet_setDivResult (r : DivResult) : Quiet s (s.setDivResult r) := {}

theorem quiet_record (e : Event) : Quiet s (s.record e) := { history := List.prefix_append _ _ }

theorem quiet_recordAll (es : List Event) : Quiet s (s.recordAll es) := { history := List.prefix_append _ _ }

theorem quiet_finish (w : Word) (c : Code) : Quiet s (s.finish w c) := { history := List.prefix_append _ _ }

theorem quiet_windowWrite (r : WindowReg) (v : Word) : Quiet s (s.windowWrite r v) := by
  rw [State.windowWrite_eq]; exact {}

theorem quiet_raiseFault (r : FaultMark) : Quiet s (s.raiseFault r) := by
  rw [State.raiseFault_eq]
  refine { faults := ?_ }
  split_ifs
  · exact List.Subset.refl _
  · exact List.subset_append_left _ _

theorem quiet_popInput : Quiet s s.popInput := {}

end

section
variable {s t u : State}

theorem Quiet.trans (h : Quiet s t) (h' : Quiet t u) : Quiet s u where
  history := h.history.trans h'.history
  faults := List.Subset.trans h.faults h'.faults
  params := h'.params.trans h.params
  drvReady := h'.drvReady.trans h.drvReady
  sysclk := h'.sysclk.trans h.sysclk
  pwm := h'.pwm.trans h.pwm
  adc := h'.adc.trans h.adc
  sram := h'.sram.trans h.sram
  written := h'.written.trans h.written

theorem quiet_readSample (s : State) (i : Nat) : Quiet s (s.readSample i) := by
  unfold State.readSample
  split
  · exact {}
  · exact (quiet_raiseFault s .unwrittenSample).trans {}

theorem quiet_setResolution (s : State) (r : Option Nat) : Quiet s (s.setResolution r) :=
  (quiet_setRes1Nat s r).trans (quiet_setRes0Nat _ _)

theorem Changes.quiet (h : Changes s t) (q : Quiet t u) : Changes s u := Relation.ReflTransGen.tail h (.quiet q)

theorem Quiet.changes (q : Quiet s t) : Changes s t := .single (.quiet q)

/-! ### Answers of a command -/

/-- Every next state the answer gives is reached from `s` by a chain of changes. -/
def Reaches (s : State) (r : Result) : Prop := ∀ t, r = .next t → Changes s t

theorem reaches_next (h : Changes s t) : Reaches s (.next t) := by
  rintro _ ⟨⟩; exact h

theorem reaches_fault (f : Fault) : Reaches s (.fault f) := by
  rintro _ ⟨⟩

theorem reaches_endWith {i : Instr} {c : Code} (h : Changes s t) : Reaches s (endWith i c t) :=
  reaches_next (Changes.quiet h (quiet_finish t _ _))

theorem reaches_answer {i : Instr} {v : Word} (h : Changes s t) : Reaches s (answer i t v) :=
  reaches_endWith (Changes.quiet h (quiet_setRes0 t v))

theorem reaches_answerNat {i : Instr} {v : Option Nat} : Reaches s (answerNat i s v) :=
  reaches_endWith (quiet_setRes0Nat s v).changes

theorem reaches_ite {c : Prop} [Decidable c] {a b : Result} (ha : c → Reaches s a) (hb : ¬c → Reaches s b) :
    Reaches s (if c then a else b) := by
  split_ifs with h
  · exact ha h
  · exact hb h

theorem reaches_onModule {i : Instr} {m : ModuleIndex} {k : PwmModule → Result}
    (h : m.toNat < s.params.pwmModules → (s.pwmAt m).st ≠ .uninit → Reaches s (k (s.pwmAt m))) :
    Reaches s (onModule i m s k) :=
  reaches_ite (fun hu => h (State.usable_iff.mp hu).1 (State.usable_iff.mp hu).2) fun _ => reaches_endWith .refl

theorem reaches_onAdc {i : Instr} {k : Result} (h : s.adc.st = .constructed → Reaches s k) :
    Reaches s (onAdc i s k) :=
  reaches_ite h fun _ => reaches_endWith .refl

theorem reaches_onTask {i : Instr} {k : Result} (h : s.adc.st = .constructed → s.adc.bound = true → Reaches s k) :
    Reaches s (onTask i s k) :=
  reaches_onAdc fun hc => reaches_ite (h hc) fun _ => reaches_endWith .refl

theorem reaches_updateModule {i : Instr} {m : ModuleIndex} {x : PwmModule} (hm : m.toNat < s.params.pwmModules)
    (h : ModuleChange s (s.pwmAt m) x) : Reaches s (updateModule i m s x) :=
  reaches_endWith (.single (.slot m hm h))

theorem reaches_finishAdc {i : Instr} {a : AdcState} (h : AdcChange s s.adc a) :
    Reaches s (finishOk i { s with adc := a }) :=
  reaches_endWith (.single (.adc h))

end

/-! ### Driver and divider commands -/

variable (s : State) (m : ModuleIndex)

theorem reaches_drvInit : Reaches s (execDrvInit s) := by
  unfold execDrvInit
  split_ifs with hr hz
  · exact reaches_endWith .refl
  · exact reaches_endWith .refl
  · exact reaches_endWith (.single (.clock s.arg0 (by simpa using hr) hz))

theorem reaches_clkdivCalc (table : DivTable) : Reaches s (execClkdivCalc table s) := by
  unfold execClkdivCalc
  split
  · exact reaches_endWith .refl
  · exact reaches_endWith (quiet_setDivResult s _).changes

/-! ### Time base commands -/

theorem reaches_pwmConstruct (mode : BitVec 2) : Reaches s (execPwmConstruct m mode s) := by
  unfold execPwmConstruct
  split
  · exact reaches_endWith .refl
  next md _ =>
    split_ifs with hc
    · obtain ⟨hm, -, hr⟩ := hc
      split
      · exact reaches_endWith .refl
      next r hf =>
        have hset : Change s (s.setPwm m (.construct md r)) :=
          .slot m (of_decide_eq_true hm) (.construct md _ r hr hf)
        exact reaches_endWith (Changes.quiet (.single hset) (quiet_setDivResult _ r))
    · exact reaches_endWith .refl

theorem reaches_pwmStart (n : BitVec 4) : Reaches s (execPwmStart m n s) :=
  reaches_onModule fun hm live =>
    reaches_ite
      (fun ok => reaches_endWith
        (Changes.quiet (.single (.slot m hm (.start n _ _ _ live ok))) (quiet_record _ _)))
      fun _ => reaches_endWith .refl

theorem reaches_pwmSetTask (n : BitVec 4) : Reaches s (execPwmSetTask m n s) :=
  reaches_onModule fun hm live =>
    reaches_ite (fun ok => reaches_updateModule hm (.task n _ _ _ live ok)) fun _ => reaches_endWith .refl

theorem reaches_pwmStop : Reaches s (execPwmStop m s) :=
  reaches_onModule fun hm live =>
    reaches_ite (fun _ => reaches_updateModule hm (.stop live)) fun _ => reaches_endWith .refl

theorem reaches_pwmGetFreq (set : Bool) : Reaches s (execPwmGetFreq m set s) :=
  reaches_onModule fun _ _ =>
    reaches_ite (fun _ => reaches_ite (fun _ => reaches_answer .refl) fun _ => reaches_answerNat)
      fun _ => reaches_endWith .refl

theorem reaches_pwmGetDuty (c : BitVec 4) (set : Bool) : Reaches s (execPwmGetDuty m c set s) :=
  reaches_onModule fun _ _ =>
    reaches_ite (fun _ => reaches_ite (fun _ => reaches_answer .refl) fun _ => reaches_answerNat)
      fun _ => reaches_endWith .refl

theorem reaches_pwmGetBounds : Reaches s (execPwmGetBounds m s) :=
  reaches_onModule fun _ _ =>
    reaches_endWith ((quiet_setRes0Nat s _).trans (quiet_setRes1Nat _ _)).changes

theorem reaches_pwmGetState : Reaches s (execPwmGetState m s) :=
  reaches_ite (fun _ => reaches_endWith ((quiet_setRes0 s _).trans (quiet_setRes1 _ _)).changes)
    fun _ => reaches_endWith .refl

/-! ### Dead-band, Toggle and chopper commands -/

theorem moduleChange_setToggle {s : State} {x : PwmModule} (t : Toggle) (b : Bool) (live : x.st ≠ .uninit) :
    ModuleChange s x (x.setToggle t b) :=
  .options _ live (by cases t <;> rfl)

theorem reaches_tglDisable (t : Toggle) : Reaches s (execTglDisable m t s) :=
  reaches_onModule fun hm live => reaches_answer (.single (.slot m hm (moduleChange_setToggle t false live)))

theorem reaches_tglEnable (t : Toggle) (status : Bool) : Reaches s (execTglEnable m t status s) :=
  reaches_onModule fun hm live =>
    reaches_ite (fun _ => reaches_updateModule hm (moduleChange_setToggle t true live))
      fun _ => reaches_endWith .refl

theorem reaches_chpSetFreq : Reaches s (execChpSetFreq m s) :=
  reaches_onModule fun hm live => by
    split
    · exact reaches_endWith .refl
    · exact reaches_updateModule hm (.options _ live rfl)

theorem reaches_chpSetDuty : Reaches s (execChpSetDuty m s) :=
  reaches_onModule fun hm live =>
    reaches_ite (fun _ => reaches_updateModule hm (.chopperDuty _ _ live)) fun _ => reaches_endWith .refl

/-- A getter that answers the request, or a readback that may have no value. -/
theorem reaches_getter {i : Instr} {set : Bool} {v : PwmModule → Word} {w : PwmModule → Option Nat} :
    Reaches s (onModule i m s fun x => if set then answer i s (v x) else answerNat i s (w x)) :=
  reaches_onModule fun _ _ => reaches_ite (fun _ => reaches_answer .refl) fun _ => reaches_answerNat

/-- A getter that answers the requested delay, or its readback. -/
theorem reaches_delayGetter {i : Instr} {set : Bool} {v : PwmModule → Word} {r t clk : PwmModule → Nat} :
    Reaches s (onModule i m s fun x =>
      if set then answer i s (v x) else finishOk i (s.setRes0Readback (r x) (t x) (clk x))) :=
  reaches_onModule fun _ _ =>
    reaches_ite (fun _ => reaches_answer .refl) fun _ => reaches_endWith (quiet_setRes0Readback s _ _ _).changes

/-- A getter that always has a value. -/
theorem reaches_reader {i : Instr} {v : PwmModule → Word} :
    Reaches s (onModule i m s fun x => answer i s (v x)) :=
  reaches_onModule fun _ _ => reaches_answer .refl

/-! ### Synchronisation, phase, high resolution and event trigger commands -/

theorem reaches_syncSynchronize : Reaches s (execSyncSynchronize m s) :=
  reaches_onModule fun _ _ =>
    reaches_ite (fun _ => reaches_answer .refl) fun _ => reaches_answer (quiet_recordAll s _).changes

theorem reaches_phsSet : Reaches s (execPhsSet m s) :=
  reaches_onModule fun hm live =>
    reaches_ite (fun _ => reaches_endWith .refl) fun _ => reaches_updateModule hm (.phase _ live)

theorem reaches_hrEnable : Reaches s (execHrEnable m s) :=
  reaches_onModule fun hm live =>
    reaches_ite (fun _ => reaches_endWith .refl)
      fun h => reaches_updateModule hm (.enableHr _ live (by omega) (by omega))

theorem reaches_pwmGetResolution : Reaches s (execPwmGetResolution m s) :=
  reaches_onModule fun _ _ =>
    reaches_ite (fun _ => reaches_endWith (quiet_setResolution s _).changes) fun _ => reaches_endWith .refl

theorem reaches_etSetEvent (x : Soc) (e : BitVec 3) : Reaches s (execEtSetEvent m x e s) :=
  reaches_onModule fun hm live => by
    split
    · exact reaches_endWith .refl
    next h => exact reaches_updateModule hm (.enableSoc x e live (by rw [h]; rfl))

/-! ### ADC commands -/

theorem changes_startConv (src : ConvSource) (live : s.adc.st = .constructed) (bound : s.adc.bound = true) :
    Changes s (s.startConv src) := by
  unfold State.startConv
  split_ifs with idle
  · exact Changes.quiet (.single (.adc (.startPass live bound idle))) (quiet_record _ _)
  · exact .single (.adc (.sticky _ _ true live))

theorem reaches_adcConstruct : Reaches s (execAdcConstruct s) := by
  unfold execAdcConstruct
  split_ifs with hc
  · split
    · exact reaches_endWith .refl
    next r hf =>
      have hclear : Changes s s.clearWritten := .single .clearWritten
      exact reaches_endWith
        (Changes.quiet (hclear.tail (.adc (.construct _ r hc.2 hf))) (quiet_setDivResult _ r))
  · exact reaches_endWith .refl

theorem reaches_adcRegisterTask : Reaches s (execAdcRegisterTask s) :=
  reaches_onAdc fun live =>
    reaches_ite (fun _ => reaches_endWith .refl) fun unbound =>
      reaches_ite
        (fun valid => by
          have hclear : Changes s s.clearWritten := .single .clearWritten
          exact reaches_endWith (hclear.tail (.adc (.bindTask _ _ live (by simpa using unbound) valid))))
        fun _ => reaches_endWith .refl

theorem reaches_adcSetTrigger (src : BitVec 2) : Reaches s (execAdcSetTrigger m src s) := by
  unfold execAdcSetTrigger
  split
  · exact reaches_endWith .refl
  · exact reaches_onAdc fun live => reaches_finishAdc (.trigger _ _ live)
  · exact reaches_onAdc fun live =>
      reaches_ite (fun _ => reaches_finishAdc (.trigger _ _ live)) fun _ => reaches_endWith .refl

theorem reaches_adcTrigger : Reaches s (execAdcTrigger s) :=
  reaches_onTask fun live bound => reaches_endWith (changes_startConv s _ live bound)

/-- A ring command that only answers. -/
theorem reaches_ringReader {i : Instr} {v : Word} : Reaches s (onTask i s (answer i s v)) :=
  reaches_onTask fun _ _ => reaches_answer .refl

theorem reaches_adcSetFullIsFree : Reaches s (execAdcSetFullIsFree s) :=
  reaches_onTask fun live _ =>
    reaches_ite (fun _ => reaches_endWith .refl) fun _ => reaches_finishAdc (.free live)

theorem reaches_adcReadSample : Reaches s (execAdcReadSample s) :=
  reaches_onTask fun _ _ =>
    reaches_ite
      (fun _ => reaches_ite (fun _ => reaches_endWith (quiet_readSample s _).changes) fun _ => reaches_fault _)
      fun _ => reaches_endWith .refl

theorem reaches_adcGetStatus : Reaches s (execAdcGetStatus s) :=
  reaches_onAdc fun _ => reaches_endWith ((quiet_setRes0 s _).trans (quiet_setRes1 _ _)).changes

/-! ### Every command -/

/-- Every command is a chain of elementary changes. -/
theorem reaches_exec (i : Instr) : Reaches s (exec i s) := by
  cases i with
  | nop => exact reaches_endWith .refl
  | drvInit => exact reaches_drvInit s
  | clkdivCalc table => exact reaches_clkdivCalc s table
  | pwmConstruct m mode => exact reaches_pwmConstruct s m mode
  | pwmRelease m =>
    show Reaches s (execPwmRelease m s)
    exact reaches_onModule fun hm _ => reaches_updateModule hm .release
  | pwmStart m n => exact reaches_pwmStart s m n
  | pwmSetTask m n => exact reaches_pwmSetTask s m n
  | pwmStop m => exact reaches_pwmStop s m
  | pwmGetFreq m set => exact reaches_pwmGetFreq s m set
  | pwmGetDuty m c set => exact reaches_pwmGetDuty s m c set
  | pwmGetBounds m => exact reaches_pwmGetBounds s m
  | pwmGetState m => exact reaches_pwmGetState s m
  | pwmReadReg m r =>
    show Reaches s (execPwmReadReg m r s)
    exact reaches_reader s m
  | dbSetRise m =>
    show Reaches s (execDbSetRise m s)
    exact reaches_onModule fun hm live => reaches_updateModule hm (.riseDelay _ live)
  | dbSetFall m =>
    show Reaches s (execDbSetFall m s)
    exact reaches_onModule fun hm live => reaches_updateModule hm (.fallDelay _ live)
  | dbGetRise m set =>
    show Reaches s (execDbGetRise m set s)
    exact reaches_delayGetter s m
  | dbGetFall m set =>
    show Reaches s (execDbGetFall m set s)
    exact reaches_delayGetter s m
  | tglDisable m t => exact reaches_tglDisable s m t
  | tglEnable m t status => exact reaches_tglEnable s m t status
  | tglRead m t =>
    show Reaches s (execTglRead m t s)
    exact reaches_reader s m
  | chpSetFreq m => exact reaches_chpSetFreq s m
  | chpSetDuty m => exact reaches_chpSetDuty s m
  | chpSetPulse m =>
    show Reaches s (execChpSetPulse m s)
    exact reaches_onModule fun hm live => reaches_updateModule hm (.options _ live rfl)
  | chpGetFreq m set =>
    show Reaches s (execChpGetFreq m set s)
    exact reaches_getter s m
  | chpGetDuty m set =>
    show Reaches s (execChpGetDuty m set s)
    exact reaches_getter s m
  | chpGetPulse m set =>
    show Reaches s (execChpGetPulse m set s)
    exact reaches_getter s m
  | syncSetEvent m e =>
    show Reaches s (execSyncSetEvent m e s)
    exact reaches_onModule fun hm live => reaches_updateModule hm (.options _ live rfl)
  | syncGetEvent m =>
    show Reaches s (execSyncGetEvent m s)
    exact reaches_reader s m
  | syncIsSynchronizing m =>
    show Reaches s (execSyncIsSynchronizing m s)
    exact reaches_reader s m
  | syncSynchronize m => exact reaches_syncSynchronize s m
  | phsSet m => exact reaches_phsSet s m
  | phsGet m set =>
    show Reaches s (execPhsGet m set s)
    exact reaches_getter s m
  | phsSetDir m dir =>
    show Reaches s (execPhsSetDir m dir s)
    exact reaches_onModule fun hm live => reaches_updateModule hm (.options _ live rfl)
  | phsGetDir m =>
    show Reaches s (execPhsGetDir m s)
    exact reaches_reader s m
  | hrEnable m => exact reaches_hrEnable s m
  | hrDisable m =>
    show Reaches s (execHrDisable m s)
    exact reaches_onModule fun hm live => reaches_updateModule hm (.disableHr live)
  | hrIsEnabled m =>
    show Reaches s (execHrIsEnabled m s)
    exact reaches_reader s m
  | pwmGetResolution m => exact reaches_pwmGetResolution s m
  | etSetEvent m x e => exact reaches_etSetEvent s m x e
  | etResetEvent m x =>
    show Reaches s (execEtResetEvent m x s)
    exact reaches_onModule fun hm live => reaches_updateModule hm (.disableSoc x live)
  | etGetEvent m x =>
    show Reaches s (execEtGetEvent m x s)
    exact reaches_reader s m
  | adcConstruct => exact reaches_adcConstruct s
  | adcRelease => exact reaches_onAdc fun _ => reaches_finishAdc .release
  | adcGetClock => exact reaches_onAdc fun _ => reaches_answer .refl
  | adcRegisterTask => exact reaches_adcRegisterTask s
  | adcSetTrigger m src => exact reaches_adcSetTrigger s m src
  | adcTrigger => exact reaches_adcTrigger s
  | adcGetFreeIndex => exact reaches_ringReader s
  | adcGetFullIndex => exact reaches_ringReader s
  | adcSetFullIsFree => exact reaches_adcSetFullIsFree s
  | adcIsFilled => exact reaches_ringReader s
  | adcReadSample => exact reaches_adcReadSample s
  | adcGetStatus => exact reaches_adcGetStatus s
  | adcClearStatus mask => exact reaches_onAdc fun live => reaches_finishAdc (.sticky _ _ _ live)

/-! ### The environment's steps -/

theorem changes_loadAtZero (e : CtrEvent) (hm : m.toNat < s.params.pwmModules) (live : (s.pwmAt m).st ≠ .uninit) :
    Changes s (s.loadAtZero m e) := by
  unfold State.loadAtZero
  split_ifs
  · exact Changes.quiet (.single (.slot m hm (.shadowLoad live))) (quiet_record _ _)
  · exact .refl

theorem changes_socLine (x : Soc) (e : CtrEvent) : Changes s (s.socLine m x e) := by
  unfold State.socLine State.socPulse
  split_ifs with _ ht
  · obtain ⟨live, bound, -, -⟩ := of_decide_eq_true ht
    exact (quiet_record s _).changes.trans (changes_startConv (s.record (.soc m x)) _ live bound)
  · exact (quiet_record s _).changes
  · exact .refl

theorem changes_syncByEvent (e : CtrEvent) : Changes s (s.syncByEvent m e) := by
  rw [State.syncByEvent_eq]
  exact (quiet_recordAll s _).changes

theorem reaches_evCtr (e : CtrEvent) : Reaches s (evCtr m e s) :=
  reaches_ite
    (fun ⟨hm, running⟩ => by
      have live : (s.pwmAt m).st ≠ .uninit := by rw [running]; decide
      exact reaches_next
        ((quiet_record s _).changes.trans
          ((changes_loadAtZero (s.record (.ctrEvent m e)) m e (of_decide_eq_true hm) live).trans
            ((changes_socLine _ m .soca e).trans
              ((changes_socLine _ m .socb e).trans (changes_syncByEvent _ m e))))))
    fun _ => reaches_fault _

theorem reaches_evConv (v : List Half) : Reaches s (evConv v s) :=
  reaches_ite
    (fun busy => reaches_ite
      (fun _ => reaches_next (Changes.quiet (.single (.adc (.completePass _ busy))) (quiet_record _ _)))
      fun _ => reaches_fault _)
    fun _ => reaches_fault _

/-- What the capture engine needs of a state once its block is begun: the ADC is constructed, and a sequence is left
to store unless the task has none. -/
abbrev Begun (s : State) : Prop := s.adc.st = .constructed ∧ (1 ≤ s.adc.nSeq.toNat → s.adc.seqLeft ≠ 0#8)

theorem begun_beginBlock {s : State} (live : s.adc.st = .constructed) : Begun s.beginBlock := by
  have full : 1 ≤ s.adc.nSeq.toNat → s.adc.nSeq ≠ 0#8 := fun h e => by simp [e] at h
  unfold State.beginBlock
  split_ifs with hleft hfill
  · exact ⟨live, full⟩
  · exact ⟨live, full⟩
  · exact ⟨live, fun _ => hleft⟩

theorem changes_beginBlock (live : s.adc.st = .constructed)
    (policy : ¬(s.adc.overruns = true ∧ s.params.overflowPolicy = .dropNewest)) : Changes s s.beginBlock := by
  unfold State.beginBlock
  split_ifs with hleft hfill
  · have hp : s.params.overflowPolicy ≠ .dropNewest := fun h =>
      policy ⟨by simp [AdcState.overruns, hleft, hfill], h⟩
    have hdrop : Changes s { s with adc := { s.adc with dropped := true } } :=
      .single (.adc (.sticky _ true _ live))
    exact Changes.quiet (hdrop.tail (.adc (.beginBlock live fun _ => hp))) (quiet_record _ _)
  · exact .single (.adc (.beginBlock live fun h => absurd h hfill))
  · exact .refl

@[simp] theorem State.sampleWrites_adc (i : Nat) (vs : List Half) : (s.sampleWrites i vs).adc = s.adc := by
  rw [State.sampleWrites_eq]

@[simp] theorem State.sampleWrites_params (i : Nat) (vs : List Half) : (s.sampleWrites i vs).params = s.params := by
  rw [State.sampleWrites_eq]

theorem changes_storeSequence (ready : Begun s)
    (inside : s.adc.captureAddr + s.adc.captureWords.length ≤ s.params.adcBufWords) :
    Changes s s.storeSequence := by
  have hstore : Changes s ((s.sampleWrites s.adc.captureAddr s.adc.captureWords).record
      (.capture s.adc.free s.adc.captureSeq)) :=
    Changes.quiet (.single (.sampleWrites _ _ inside)) (quiet_record _ _)
  refine hstore.tail (.adc ?_)
  rw [State.record_adc, State.sampleWrites_adc]
  exact .countSequence ready.1 ready.2

theorem changes_publishBlock (b : BitVec 8) (live : s.adc.st = .constructed) :
    Changes s (s.publishBlock b) := by
  unfold State.publishBlock
  split_ifs with hlast
  · have hfree : Changes s { s with adc := s.adc.setFreeIsFull } := .single (.adc (.publish live hlast))
    have live' : s.adc.setFreeIsFull.st = .constructed := by
      unfold AdcState.setFreeIsFull
      split_ifs <;> exact live
    exact Changes.quiet (hfree.tail (.adc (.sticky true _ _ live'))) (quiet_record _ _)
  · exact .refl

theorem changes_resetSequencer (live : s.adc.st = .constructed) : Changes s s.resetSequencer :=
  .single (.adc (.resetSequencer live))

theorem State.publishBlock_st (b : BitVec 8) : (s.publishBlock b).adc.st = s.adc.st := by
  unfold State.publishBlock AdcState.setFreeIsFull
  split_ifs <;> rfl

theorem reaches_captureSequence (live : s.adc.st = .constructed) : Reaches s s.captureSequence := by
  unfold State.captureSequence
  split_ifs with hnew
  · have hdrop : Changes s s.dropNewest :=
      Changes.quiet (.single (.adc (.sticky _ true _ live))) (quiet_record _ _)
    exact reaches_next (hdrop.trans (changes_resetSequencer s.dropNewest live))
  · have ready := begun_beginBlock live
    refine reaches_ite (fun inside => reaches_next ?_) fun _ => reaches_fault _
    calc Changes s s.beginBlock := changes_beginBlock s live hnew
      Changes _ s.beginBlock.storeSequence := changes_storeSequence _ ready inside
      Changes _ (s.beginBlock.storeSequence.publishBlock s.beginBlock.adc.free) :=
        changes_publishBlock s.beginBlock.storeSequence _ ready.1
      Changes _ (s.beginBlock.storeSequence.publishBlock s.beginBlock.adc.free).resetSequencer :=
        changes_resetSequencer _ ((State.publishBlock_st _ _).trans ready.1)

theorem reaches_evCapture : Reaches s (evCapture s) :=
  reaches_ite
    (fun ⟨live, _⟩ => reaches_ite (fun _ => reaches_captureSequence s live)
      fun _ => reaches_next (changes_resetSequencer s live))
    fun _ => reaches_fault _

/-! ### Every step -/

theorem reaches_runCommand (w : Word) : Reaches s (runCommand w s) := by
  unfold runCommand
  split
  · exact reaches_exec s _
  · exact reaches_next (quiet_finish s _ _).changes

theorem reaches_hostWrite (addr bytes : Nat) (v : Word) : Reaches s (hostWrite addr bytes v s) := by
  unfold hostWrite
  split
  · exact reaches_fault _
  · exact reaches_runCommand s v
  · exact reaches_next (quiet_windowWrite s _ v).changes

theorem reaches_hostRead (addr bytes : Nat) : Reaches s (hostRead addr bytes s) := by
  unfold hostRead
  split
  · exact reaches_fault _
  · exact reaches_next (Quiet.changes {})

theorem reaches_runInput (i : Input) : Reaches s (runInput i s) := by
  cases i with
  | hostWrite addr bytes v => exact reaches_hostWrite s addr bytes v
  | hostRead addr bytes => exact reaches_hostRead s addr bytes
  | evCtr m e => exact reaches_evCtr s m e
  | evSyncIn => exact reaches_next (quiet_recordAll s _).changes
  | evConv v => exact reaches_evConv s v
  | evCapture => exact reaches_evCapture s

/-- Every step is a chain of elementary changes. -/
theorem changes_step {s t : State} (h : step s = .next t) : Changes s t := by
  unfold step at h
  split at h
  · cases h; exact .refl
  · exact (quiet_popInput s).changes.trans (reaches_runInput s.popInput _ t h)

end Sys2Proof.Machine
end

section
/-! PROOF. What every elementary change keeps without any premise: the canonical sample RAM, the records of the
history and of the fault set, the parameters and a recorded clock. -/

namespace Sys2Proof.Machine

/-! ### The canonical sample RAM (entry 10) -/

theorem Change.memoryCanonical {s t : State} (h : Change s t) (hs : s.MemoryCanonical) : t.MemoryCanonical := by
  obtain ⟨hram, hmarks⟩ := hs
  cases h with
  | quiet q => rw [State.MemoryCanonical, q.sram, q.written]; exact ⟨hram, hmarks⟩
  | clock | slot | adc => exact ⟨hram, hmarks⟩
  | clearWritten => exact ⟨hram, List.Pairwise.nil⟩
  | sampleWrites i vs => exact ⟨s.wf_sampleWrites i vs hram, s.pairwise_sampleWrites i vs hmarks⟩

/-- Settles O14: every step is a chain of changes, and each of them keeps the canonical form. -/
theorem stepKeepsMemoryCanonical : Obligations.StepKeepsMemoryCanonical :=
  fun _ _ hs h => Changes.keeps Change.memoryCanonical (changes_step h) hs

/-! ### History, fault set, parameters and clock -/

/-- The history and the fault set of `s` are still in `t`, with its parameters and, once recorded, its clock. -/
structure Remembers (s t : State) : Prop where
  history : s.history <+: t.history
  faults : s.faults ⊆ t.faults
  params : t.params = s.params
  clock : s.drvReady = true → t.drvReady = true ∧ t.sysclk = s.sysclk

variable {s t u : State}

theorem Remembers.refl (s : State) : Remembers s s :=
  ⟨List.prefix_rfl, List.Subset.refl _, rfl, fun h => ⟨h, rfl⟩⟩

theorem Remembers.trans (h : Remembers s t) (h' : Remembers t u) : Remembers s u where
  history := h.history.trans h'.history
  faults := List.Subset.trans h.faults h'.faults
  params := h'.params.trans h.params
  clock hr := by
    obtain ⟨hready, hclk⟩ := h.clock hr
    obtain ⟨hready', hclk'⟩ := h'.clock hready
    exact ⟨hready', hclk'.trans hclk⟩

theorem Change.remembers (h : Change s t) : Remembers s t := by
  cases h with
  | quiet q => exact ⟨q.history, q.faults, q.params, fun h => ⟨q.drvReady.trans h, q.sysclk⟩⟩
  | clock rate unset =>
    exact ⟨List.prefix_rfl, List.Subset.refl _, rfl, fun h => absurd h (by simp [unset])⟩
  | slot | adc | clearWritten => exact ⟨List.prefix_rfl, List.Subset.refl _, rfl, fun h => ⟨h, rfl⟩⟩
  | sampleWrites i vs =>
    rw [State.sampleWrites_eq]
    exact ⟨List.prefix_rfl, List.Subset.refl _, rfl, fun h => ⟨h, rfl⟩⟩

/-- Settles O16: every step is a chain of changes, and each of them remembers the state it starts from. -/
theorem historyFaultsAndClockAreKept : Obligations.HistoryFaultsAndClockAreKept := by
  intro s t h
  have ⟨hist, faults, params, clock⟩ : Remembers s t :=
    Changes.keeps (P := Remembers s) (fun hc hs => hs.trans hc.remembers) (changes_step h) (.refl s)
  exact ⟨hist, faults, params, clock⟩

end Sys2Proof.Machine
end

section
/-! PROOF. A legal state stays legal: each change of a module, of the ADC and of the sample RAM keeps the invariants
of Sys2Proof/Safety.lean. -/

namespace Sys2Proof.Machine

/-! ### Periods and compares fit their registers (41_pwm_timebase.md R143 to R147) -/

/-- A frequency inside the bounds has a period of at most `bits` bits: the bound is the least such frequency. -/
theorem period_lt {bits : Nat} {md : Mode} {t f : Nat} (h : minFrequency bits md t ≤ f) :
    period md t f < 2 ^ bits := by
  have hpow : 0 < 2 ^ bits := Nat.two_pow_pos bits
  -- with `1 ≤ f`, the bound's quotient turns around
  have turn : ∀ n, 0 < n → max 1 (ceilDiv t n) ≤ f → ceilDiv t f ≤ n := fun n hn hf => by
    obtain ⟨hf1, hfn⟩ := max_le_iff.mp hf
    rw [ceilDiv_le_iff hf1, Nat.mul_comm]
    exact (ceilDiv_le_iff hn).mp hfn
  cases md with
  | up | down =>
    have := turn _ hpow h
    simp only [period]; omega
  | updown =>
    have := turn _ (by omega) h
    simp only [period, floorDiv]; omega

/-- A compare value of a period that fits the register fits it too. -/
theorem compare_lt {bits : Nat} {md : Mode} {p d : Nat} (hp : p < 2 ^ bits) : compare bits md p d < 2 ^ bits := by
  have hle : p * (10000 - d) ≤ p * 10000 := Nat.mul_le_mul_left p (Nat.sub_le _ _)
  cases md with
  | up => simp only [compare, floorDiv]; omega
  | down => simp only [compare]; omega
  | updown => simp only [compare, roundDiv, floorDiv]; omega


/-! ### Delays fit their registers (42_deadband_toggle.md R170) -/

@[simp] theorem nsToTicks_zero (clk bits : Nat) : nsToTicks 0 clk bits = 0 := by
  simp [nsToTicks, roundDiv, floorDiv]

theorem nsToTicks_lt (ns clk bits : Nat) : nsToTicks ns clk bits < 2 ^ bits := by
  have := nsToTicks_le ns clk bits
  have := Nat.two_pow_pos bits
  omega

/-- A word holds the ticks of a register of at most 32 bits. -/
theorem toNat_ofNat_nsToTicks {bits : Nat} (h : bits ≤ 32) (ns clk : Nat) :
    (BitVec.ofNat 32 (nsToTicks ns clk bits)).toNat = nsToTicks ns clk bits := by
  have := nsToTicks_lt ns clk bits
  have := Nat.pow_le_pow_right (n := 2) (by omega) h
  rw [BitVec.toNat_ofNat, Nat.mod_eq_of_lt (by omega)]

/-! ### The parameters the proofs of legality use -/

/-- The bounds of the admitted parameters (00_scope.md R6) that keep values inside their fields. -/
theorem Params.bounds_of_admitted {p : Params} (h : p.Admitted) :
    p.pwmChannels ≤ 2 ∧ p.ctrBits ≤ 32 ∧ p.dbBits ≤ 32 ∧ p.phsBits ≤ 32 ∧ p.chpDutyBounds.length = 6 ∧
    p.adcMaxChannels ≤ 8 := by
  obtain ⟨-, -, -, -, channels, ctr, db, phs, -, -, -, -, -, -, -, duty, -, -, adc, -⟩ := h
  exact ⟨channels, ctr.2, db.2, phs.2, duty, adc⟩

/-! ### Modules -/

section
variable {p : Params} {x : PwmModule}

/-- Registers of 0 are within every width. -/
theorem PwmModule.widthsHeld_reset (p : Params) : PwmModule.reset.WidthsHeld p := by
  have pos := Nat.two_pow_pos
  exact ⟨pos _, pos _, pos _, pos _, pos _, pos _, pos _, pos _, pos _, pos _, pos _⟩

/-- Delays never set stand for 0 ticks at every clock. -/
theorem PwmModule.delaysHeld_of_reset (p : Params) (clk : Word) : { PwmModule.reset with tbclk := clk }.DelaysHeld p :=
  have noTicks := fun bits => (nsToTicks_zero clk.toNat bits).symm
  ⟨noTicks _, noTicks _, noTicks _⟩

theorem PwmModule.legal_reset (p : Params) : PwmModule.reset.Legal p :=
  ⟨fun _ => rfl, by decide, by decide, nofun, fun _ => rfl, nofun, nofun, nofun, nofun, widthsHeld_reset p,
    delaysHeld_of_reset p 0#32⟩

theorem PwmModule.legal_construct (p : Params) (md : Mode) (r : DivResult) :
    (PwmModule.construct md r).Legal p :=
  ⟨nofun, by simp [PwmModule.construct], (by decide : (0#3 : BitVec 3) ≠ 7#3), nofun, fun _ => rfl, nofun, nofun,
    nofun, nofun, widthsHeld_reset p, delaysHeld_of_reset p _⟩

/-- The task that WRITE_TASK writes is the one the module then holds (41_pwm_timebase.md R147). -/
theorem PwmModule.taskHeld_writeTask (hp : p.Admitted) {n : BitVec 4} {f : Word} {d0 d1 : Half}
    (ok : x.isTask p n f d0 d1 = true) : (x.writeTask p n f d0 d1).TaskHeld p := by
  obtain ⟨channels, ctr, -⟩ := Params.bounds_of_admitted hp
  obtain ⟨hn, hmin, hmax, hd0, hd1⟩ := PwmModule.isTask_iff.mp ok
  have hn2 : (n.setWidth 2).toNat = n.toNat := by
    rw [BitVec.toNat_setWidth]; omega
  have hperiod := period_lt hmin
  have hprd : (regValue p.ctrBits (period x.mode x.tbclk.toNat f.toNat)).toNat =
      period x.mode x.tbclk.toNat f.toNat := by
    rw [regValue_toNat ctr, Nat.mod_eq_of_lt hperiod]
  have hcmp : ∀ d, (regValue p.ctrBits (compare p.ctrBits x.mode (period x.mode x.tbclk.toNat f.toNat) d)).toNat =
      compare p.ctrBits x.mode (period x.mode x.tbclk.toNat f.toNat) d := fun d => by
    rw [regValue_toNat ctr, Nat.mod_eq_of_lt (compare_lt hperiod)]
  refine ⟨hn2 ▸ hn, hmin, hmax, ?_, ?_, hprd, ?_, ?_⟩
  · show (if 0 < n.toNat then d0 else 0#16).toNat ≤ 10000
    split_ifs with h
    · exact hd0 h
    · exact Nat.zero_le _
  · show (if 1 < n.toNat then d1 else 0#16).toNat ≤ 10000
    split_ifs with h
    · exact hd1 h
    · exact Nat.zero_le _
  · intro h
    have h : 0 < n.toNat := hn2 ▸ h
    simp only [PwmModule.writeTask, if_pos h, hprd, hcmp]
  · intro h
    have h : 1 < n.toNat := hn2 ▸ h
    simp only [PwmModule.writeTask, if_pos h, hprd, hcmp]

theorem toNat_ite_lt {c : Prop} [Decidable c] {a b : Word} {n : Nat} (ha : a.toNat < n) (hb : b.toNat < n) :
    (if c then a else b).toNat < n := by
  split_ifs
  · exact ha
  · exact hb

theorem PwmModule.widthsHeld_writeTask (hx : x.WidthsHeld p) (n : BitVec 4) (f : Word) (d0 d1 : Half) :
    (x.writeTask p n f d0 d1).WidthsHeld p := by
  obtain ⟨-, hprdA, hc0, hc1, hcA0, hcA1, hhr, hhrA, hdelays⟩ := hx
  exact ⟨regValue_toNat_lt _ _, hprdA, toNat_ite_lt (regValue_toNat_lt _ _) hc0,
    toNat_ite_lt (regValue_toNat_lt _ _) hc1, hcA0, hcA1, toNat_ite_lt (regValue_toNat_lt _ _) hhr, hhrA, hdelays⟩

theorem PwmModule.legal_writeTask (hp : p.Admitted) (hx : x.Legal p) (live : x.st ≠ .uninit) {n : BitVec 4} {f : Word}
    {d0 d1 : Half} (ok : x.isTask p n f d0 d1 = true) : (x.writeTask p n f d0 d1).Legal p := by
  obtain ⟨-, hclk, hchp, hhr, hhr0, hs0, hs1, hrun, -, hwid, hdel⟩ := hx
  have hext : x.hrEn = false → (x.writeTask p n f d0 d1).cmpahr = 0#32 := fun h => by
    simp [PwmModule.writeTask, h, hhr0 h]
  exact ⟨fun h => absurd h live, hclk, hchp, hhr, hext, hs0, hs1, fun _ => rfl,
    fun _ => PwmModule.taskHeld_writeTask hp ok, PwmModule.widthsHeld_writeTask hwid n f d0 d1, hdel⟩

theorem PwmModule.legal_shadowLoad (hx : x.Legal p) (live : x.st ≠ .uninit) : x.shadowLoad.Legal p := by
  obtain ⟨-, hclk, hchp, hhr, hhr0, hs0, hs1, hrun, htask, hwid, hdel⟩ := hx
  obtain ⟨hprd, -, hc0, hc1, -, -, hext, -, hdelays⟩ := hwid
  exact ⟨fun h => absurd h live, hclk, hchp, hhr, hhr0, hs0, hs1, hrun, htask,
    ⟨hprd, hprd, hc0, hc1, hc0, hc1, hext, hext, hdelays⟩, hdel⟩

/-- A live module may be `Running` with a task, and `Stopped` at all times. -/
theorem PwmModule.legal_setSt (hx : x.Legal p) (live : x.st ≠ .uninit) {st : LifeState} (hst : st ≠ .uninit)
    (task : st = .running → x.taskValid = true) : { x with st := st }.Legal p := by
  obtain ⟨-, hclk, hchp, hhr, hhr0, hs0, hs1, -, htask, hwid, hdel⟩ := hx
  exact ⟨fun h => absurd h hst, by simp [hst, hclk.mpr live], hchp, hhr, hhr0, hs0, hs1, task, htask, hwid, hdel⟩

theorem PwmModule.legal_options (hx : x.Legal p) (live : x.st ≠ .uninit) (dbctl : BitVec 6) (freqReq pulseReq : Word)
    (chpEn : Bool) (oshtwth : BitVec 4) (chpFreq : BitVec 3) (syncEvent : SyncEvent) (phsDir phsEn : Bool) :
    { x with
      dbctl := dbctl, chpFreqReq := freqReq, chpPulseReq := pulseReq, chpEn := chpEn, oshtwth := oshtwth
      chpFreq := chpFreq, syncEvent := syncEvent, phsDir := phsDir, phsEn := phsEn }.Legal p := by
  obtain ⟨-, hrest⟩ := hx
  exact ⟨fun h => absurd h live, hrest⟩

/-- A duty above all six bounds has code 6, so code 7 is never written (10_state.md R32, 43_chopper.md R193). -/
theorem PwmModule.legal_chopperDuty (hp : p.Admitted) (hx : x.Legal p) (live : x.st ≠ .uninit) (req : Half)
    (d : Nat) :
    { x with chpDutyReq := req, chpDuty := BitVec.ofNat 3 (chopperDutyCode p.chpDutyBounds d) }.Legal p := by
  obtain ⟨-, hclk, -, hrest⟩ := hx
  obtain ⟨-, -, -, -, six, -⟩ := Params.bounds_of_admitted hp
  have hle := chopperDutyCode_le p.chpDutyBounds d
  have hcode : BitVec.ofNat 3 (chopperDutyCode p.chpDutyBounds d) ≠ 7#3 := fun h => by
    have := congrArg BitVec.toNat h
    simp only [BitVec.toNat_ofNat] at this
    omega
  exact ⟨fun h => absurd h live, hclk, hcode, hrest⟩

theorem PwmModule.legal_riseDelay (hp : p.Admitted) (hx : x.Legal p) (live : x.st ≠ .uninit) (ns : Word) :
    { x with dbRiseNs := ns, dbred := BitVec.ofNat 32 (nsToTicks ns.toNat x.tbclk.toNat p.dbBits) }.Legal p := by
  obtain ⟨-, hclk, hchp, hhr, hhr0, hs0, hs1, hrun, htask, hwid, -, hfall, hphs⟩ := hx
  obtain ⟨hprd, hprdA, hc0, hc1, hcA0, hcA1, hext, hextA, -, hwidFall⟩ := hwid
  obtain ⟨-, -, db, -⟩ := Params.bounds_of_admitted hp
  have e := toNat_ofNat_nsToTicks db ns.toNat x.tbclk.toNat
  exact ⟨fun h => absurd h live, hclk, hchp, hhr, hhr0, hs0, hs1, hrun, htask,
    ⟨hprd, hprdA, hc0, hc1, hcA0, hcA1, hext, hextA, e.trans_lt (nsToTicks_lt _ _ _), hwidFall⟩, e, hfall, hphs⟩

theorem PwmModule.legal_fallDelay (hp : p.Admitted) (hx : x.Legal p) (live : x.st ≠ .uninit) (ns : Word) :
    { x with dbFallNs := ns, dbfed := BitVec.ofNat 32 (nsToTicks ns.toNat x.tbclk.toNat p.dbBits) }.Legal p := by
  obtain ⟨-, hclk, hchp, hhr, hhr0, hs0, hs1, hrun, htask, hwid, hrise, -, hphs⟩ := hx
  obtain ⟨hprd, hprdA, hc0, hc1, hcA0, hcA1, hext, hextA, hwidRise, -, hwidPhs⟩ := hwid
  obtain ⟨-, -, db, -⟩ := Params.bounds_of_admitted hp
  have e := toNat_ofNat_nsToTicks db ns.toNat x.tbclk.toNat
  exact ⟨fun h => absurd h live, hclk, hchp, hhr, hhr0, hs0, hs1, hrun, htask,
    ⟨hprd, hprdA, hc0, hc1, hcA0, hcA1, hext, hextA, hwidRise, e.trans_lt (nsToTicks_lt _ _ _), hwidPhs⟩,
    hrise, e, hphs⟩

theorem PwmModule.legal_phase (hp : p.Admitted) (hx : x.Legal p) (live : x.st ≠ .uninit) (ns : Word) :
    { x with phaseNs := ns, tbphs := BitVec.ofNat 32 (nsToTicks ns.toNat x.tbclk.toNat p.phsBits) }.Legal p := by
  obtain ⟨-, hclk, hchp, hhr, hhr0, hs0, hs1, hrun, htask, hwid, hrise, hfall, -⟩ := hx
  obtain ⟨hprd, hprdA, hc0, hc1, hcA0, hcA1, hext, hextA, hwidRise, hwidFall, -⟩ := hwid
  obtain ⟨-, -, -, phs, -⟩ := Params.bounds_of_admitted hp
  have e := toNat_ofNat_nsToTicks phs ns.toNat x.tbclk.toNat
  exact ⟨fun h => absurd h live, hclk, hchp, hhr, hhr0, hs0, hs1, hrun, htask,
    ⟨hprd, hprdA, hc0, hc1, hcA0, hcA1, hext, hextA, hwidRise, hwidFall, e.trans_lt (nsToTicks_lt _ _ _)⟩,
    hrise, hfall, e⟩

/-- High resolution may be switched, with a scale of at least 1 when on and a cleared extension when off
(44_sync_phase_hr.md R230, R231). -/
theorem PwmModule.legal_setHr (hx : x.Legal p) (live : x.st ≠ .uninit) {on : Bool} {scale : BitVec 8} {ext : Word}
    (hon : on = true → 1 ≤ scale.toNat) (hoff : on = false → ext = 0#32) (hext : ext.toNat < 2 ^ p.hrBits) :
    { x with hrEn := on, hrScale := scale, cmpahr := ext }.Legal p := by
  obtain ⟨-, hclk, hchp, -, -, hs0, hs1, hrun, htask, hwid, hdel⟩ := hx
  obtain ⟨hprd, hprdA, hc0, hc1, hcA0, hcA1, -, hwidRest⟩ := hwid
  exact ⟨fun h => absurd h live, hclk, hchp, hon, hoff, hs0, hs1, hrun, htask,
    ⟨hprd, hprdA, hc0, hc1, hcA0, hcA1, hext, hwidRest⟩, hdel⟩

theorem PwmModule.legal_enableHr (hx : x.Legal p) (live : x.st ≠ .uninit) {k : Nat} (pos : 1 ≤ k)
    (small : k ≤ 255) : (x.enableHr p k).Legal p := by
  have ⟨_, _, _, _, _, _, _, _, _, hwid, _⟩ := hx
  obtain ⟨-, -, -, -, -, -, hext, -⟩ := hwid
  have hscale : 1 ≤ (BitVec.ofNat 8 k).toNat := by rw [BitVec.toNat_ofNat]; omega
  exact PwmModule.legal_setHr hx live (fun _ => hscale) nofun (toNat_ite_lt (regValue_toNat_lt _ _) hext)

theorem PwmModule.legal_disableHr (hx : x.Legal p) (live : x.st ≠ .uninit) :
    { x with hrEn := false, cmpahr := 0#32 }.Legal p :=
  PwmModule.legal_setHr hx live nofun (fun _ => rfl) (Nat.two_pow_pos _)

/-- A SOC line may be switched on with a supported event, and off (45_event_trigger.md R242, R243). -/
theorem PwmModule.legal_setSoc (hx : x.Legal p) (live : x.st ≠ .uninit) (line : Soc) (sel : BitVec 3) {on : Bool}
    (supported : on = true → (CtrEvent.ofCode sel).isSome) :
    { x with socSel := x.socSel.setSoc line sel, socEn := x.socEn.setSoc line on }.Legal p := by
  obtain ⟨-, hclk, hchp, hhr, hhr0, hs0, hs1, hrest⟩ := hx
  cases line with
  | soca => exact ⟨fun h => absurd h live, hclk, hchp, hhr, hhr0, supported, hs1, hrest⟩
  | socb => exact ⟨fun h => absurd h live, hclk, hchp, hhr, hhr0, hs0, supported, hrest⟩

theorem PwmModule.legal_disableSoc (hx : x.Legal p) (live : x.st ≠ .uninit) (line : Soc) :
    { x with socEn := x.socEn.setSoc line false }.Legal p := by
  have := PwmModule.legal_setSoc hx live line (x.socSel.ofSoc line) (on := false) nofun
  cases line <;> exact this

end

theorem ModuleChange.legal {s : State} {x y : PwmModule} (h : ModuleChange s x y) (hp : s.params.Admitted)
    (hx : x.Legal s.params) : y.Legal s.params := by
  cases h with
  | construct md _ r => exact PwmModule.legal_construct _ md r
  | release => exact PwmModule.legal_reset _
  | options _ live same => rw [same]; exact PwmModule.legal_options hx live _ _ _ _ _ _ _ _ _
  | chopperDuty req d live => exact PwmModule.legal_chopperDuty hp hx live req d
  | riseDelay ns live => exact PwmModule.legal_riseDelay hp hx live ns
  | fallDelay ns live => exact PwmModule.legal_fallDelay hp hx live ns
  | phase ns live => exact PwmModule.legal_phase hp hx live ns
  | enableHr k live pos small => exact PwmModule.legal_enableHr hx live pos small
  | disableHr live => exact PwmModule.legal_disableHr hx live
  | enableSoc line e live supported => exact PwmModule.legal_setSoc hx live line e fun _ => supported
  | disableSoc line live => exact PwmModule.legal_disableSoc hx live line
  | task n f d0 d1 live ok => exact PwmModule.legal_writeTask hp hx live ok
  | start n f d0 d1 live ok =>
    have loaded := PwmModule.legal_shadowLoad (PwmModule.legal_writeTask hp hx live ok) live
    exact PwmModule.legal_setSt loaded live (by decide) fun _ => rfl
  | stop live => exact PwmModule.legal_setSt hx live (by decide) nofun
  | shadowLoad live => exact PwmModule.legal_shadowLoad hx live

/-- What the clock table says of a module: no module is constructed without a recorded clock, and none runs faster
(10_state.md R23). -/
abbrev PwmModule.Clocked (s : State) (x : PwmModule) : Prop :=
  x.st ≠ .uninit → s.drvReady = true ∧ x.tbclk.toNat ≤ s.sysclk.toNat

theorem toNat_ofNat_le (n : Nat) : (BitVec.ofNat 32 n).toNat ≤ n := by
  rw [BitVec.toNat_ofNat]; exact Nat.mod_le _ _

theorem ModuleChange.clocked {s : State} {x y : PwmModule} (h : ModuleChange s x y) (hx : x.Clocked s) :
    y.Clocked s := by
  cases h with
  | construct md tgt r ready found =>
    exact fun _ => ⟨ready, (toNat_ofNat_le r.achieved).trans (divSearch_le found).2.1⟩
  | release => exact fun h => absurd rfl h
  | options _ live same => rw [same]; exact hx
  | start n f d0 d1 live | stop live => exact fun _ => hx live
  | chopperDuty | riseDelay | fallDelay | phase | enableHr | disableHr | enableSoc | disableSoc | task | shadowLoad =>
    exact hx

/-! ### The ring -/

/-- Counting up stays inside the ring (47_ring_buffer.md R280). -/
theorem AdcState.toNat_inc {a : AdcState} (h : 0 < a.nBlocks.toNat) (x : BitVec 8) :
    (a.inc x).toNat = (x.toNat + 1) % a.nBlocks.toNat := by
  have := a.nBlocks.isLt
  have := Nat.mod_lt (x.toNat + 1) h
  rw [AdcState.inc, BitVec.toNat_ofNat, Nat.mod_eq_of_lt (by omega)]

theorem AdcState.inc_lt {a : AdcState} (h : 0 < a.nBlocks.toNat) (x : BitVec 8) :
    (a.inc x).toNat < a.nBlocks.toNat := by
  rw [AdcState.toNat_inc h]; exact Nat.mod_lt _ h

/-- The producer's mutator changes the ring's state only (47_ring_buffer.md R283). -/
theorem AdcState.setFreeIsFull_eq (a : AdcState) :
    a.setFreeIsFull =
      { a with
        free := a.inc a.free
        full := if a.isFilled then a.inc a.full else a.full
        isFilled := a.isFilled || a.inc a.free == a.full } := by
  unfold AdcState.setFreeIsFull
  cases h : a.isFilled <;> simp

/-- The consumer's mutator either starts the ring again or frees the oldest block (47_ring_buffer.md R284). -/
theorem AdcState.setFullIsFree_cases (p : Params) (a : AdcState) :
    (p.emptyReset = true ∧ a.free = a.inc a.full ∧ a.seqLeft = 0#8 ∧
      a.setFullIsFree p = { a with free := 0#8, full := 0#8, isFilled := false }) ∨
    a.setFullIsFree p = { a with full := a.inc a.full, isFilled := false } := by
  unfold AdcState.setFullIsFree
  split_ifs with h
  · simp only [Bool.and_eq_true, beq_iff_eq] at h
    exact .inl ⟨h.1.1, h.1.2, h.2, rfl⟩
  · exact .inr rfl

/-- The consumer's mutator changes the ring's state only, and leaves room in it (47_ring_buffer.md R284). -/
theorem AdcState.setFullIsFree_eq (p : Params) (a : AdcState) :
    a.setFullIsFree p =
      { a with free := (a.setFullIsFree p).free, full := (a.setFullIsFree p).full, isFilled := false } := by
  rcases AdcState.setFullIsFree_cases p a with ⟨-, -, -, h⟩ | h <;> rw [h]

section
variable {p : Params} {a : AdcState}

/-- The ring of a task just bound is legal, and empty (46_adc_sequencer.md R259, R260). -/
theorem AdcState.ringLegal_bindTask (hp : p.Admitted) {dims : Word} (list : Word) (valid : adcTaskValid p dims = true) :
    (a.bindTask dims list).RingLegal p := by
  obtain ⟨-, blocks, seq, chan, chanMax, res, words⟩ := adcTaskValid_iff.mp valid
  obtain ⟨-, -, -, -, -, slots⟩ := Params.bounds_of_admitted hp
  have hconv : (BitVec.ofNat 3 ((taskChannels dims).toNat - 1)).toNat + 1 = (taskChannels dims).toNat := by
    rw [BitVec.toNat_ofNat]; omega
  have hwords : (taskBlocks dims).toNat *
      ((taskSequences dims).toNat * ((taskChannels dims).toNat * (taskResults dims).toNat)) ≤ p.adcBufWords := by
    rw [← Nat.mul_assoc, ← Nat.mul_assoc]; exact words
  exact ⟨seq, chan, chanMax, res, hwords, hconv, blocks, blocks, nofun, Nat.zero_le _, fun _ => nofun⟩

/-- A legal ring with its read and write positions moved inside it. -/
theorem AdcState.ringLegal_move (hr : a.RingLegal p) {free full : BitVec 8} {filled : Bool}
    (hfree : free.toNat < a.nBlocks.toNat) (hfull : full.toNat < a.nBlocks.toNat)
    (same : filled = true → free = full)
    (left : p.overflowPolicy = .dropNewest → filled = true → a.seqLeft = 0#8) :
    { a with free := free, full := full, isFilled := filled }.RingLegal p := by
  obtain ⟨seq, chan, chanMax, res, words, conv, -, -, -, hleft, -⟩ := hr
  exact ⟨seq, chan, chanMax, res, words, conv, hfree, hfull, same, hleft, left⟩

theorem AdcState.ringLegal_setFreeIsFull (hr : a.RingLegal p) (last : a.seqLeft = 0#8) :
    a.setFreeIsFull.RingLegal p := by
  have ⟨_, _, _, _, _, _, _, hfull, same, _, _⟩ := hr
  have pos : 0 < a.nBlocks.toNat := by omega
  rw [AdcState.setFreeIsFull_eq]
  refine AdcState.ringLegal_move hr (AdcState.inc_lt pos _) ?_ ?_ fun _ _ => last
  · split_ifs
    · exact AdcState.inc_lt pos _
    · exact hfull
  · intro h
    cases hf : a.isFilled with
    | true => simp [same hf]
    | false => simpa [hf] using h

theorem AdcState.ringLegal_setFullIsFree (hr : a.RingLegal p) : (a.setFullIsFree p).RingLegal p := by
  have ⟨_, _, _, _, _, _, hfree, _, _, _, _⟩ := hr
  have pos : 0 < a.nBlocks.toNat := by omega
  rcases AdcState.setFullIsFree_cases p a with ⟨-, -, -, h⟩ | h <;> rw [h]
  · exact AdcState.ringLegal_move hr pos pos nofun fun _ => nofun
  · exact AdcState.ringLegal_move hr hfree (AdcState.inc_lt pos _) nofun fun _ => nofun

/-- A block begins on a full ring under `DROP_OLDEST` only (47_ring_buffer.md R290, R292). -/
theorem AdcState.ringLegal_beginBlock (hr : a.RingLegal p)
    (policy : a.isFilled = true → p.overflowPolicy ≠ .dropNewest) : { a with seqLeft := a.nSeq }.RingLegal p := by
  obtain ⟨seq, chan, chanMax, res, words, conv, hfree, hfull, same, -, -⟩ := hr
  exact ⟨seq, chan, chanMax, res, words, conv, hfree, hfull, same, le_rfl, fun hp hf => absurd hp (policy hf)⟩

theorem AdcState.ringLegal_countSequence (hr : a.RingLegal p) (some : a.seqLeft ≠ 0#8) :
    { a with seqLeft := a.seqLeft - 1#8 }.RingLegal p := by
  obtain ⟨seq, chan, chanMax, res, words, conv, hfree, hfull, same, hleft, policy⟩ := hr
  have hcount : (a.seqLeft - 1#8).toNat ≤ a.nSeq.toNat := by
    have : a.seqLeft.toNat ≠ 0 := fun h => some (BitVec.eq_of_toNat_eq h)
    have := a.seqLeft.isLt
    rw [BitVec.toNat_sub, show (1#8).toNat = 1 from rfl]; omega
  exact ⟨seq, chan, chanMax, res, words, conv, hfree, hfull, same, hcount, fun hp hf => absurd (policy hp hf) some⟩

/-! ### The ADC -/

theorem AdcState.legal_reset (p : Params) : AdcState.reset.Legal p :=
  ⟨fun _ => rfl, by decide, by decide, nofun⟩

/-- A live ADC stays legal when its ring does and its sequencer is not touched. -/
theorem AdcState.legal_of_ring {b : AdcState} (ha : a.Legal p) (live : a.st = .constructed) (hst : b.st = a.st)
    (hflag : b.intFlag = a.intFlag) (hseq : b.seqState = a.seqState) (hbound : b.bound = a.bound)
    (hring : a.RingLegal p → b.RingLegal p) : b.Legal p := by
  obtain ⟨-, flag, pass, ring⟩ := ha
  refine ⟨fun h => ?_, ?_, ?_, ?_⟩
  · rw [hst, live] at h; cases h
  · rw [hflag, hseq]; exact flag
  · rw [hseq, hbound]; exact pass
  · rw [hbound]; exact fun h => hring (ring h)

/-- The sequencer of a live ADC may go to a state that fits the flag and the task (10_state.md R42). -/
theorem AdcState.legal_setSequencer (ha : a.Legal p) (live : a.st = .constructed)
    (result : Vector Half Config.resultSlots) {st : SeqState} {flag : Bool} (hflag : flag = true ↔ st = .complete)
    (hbound : st ≠ .idle → a.bound = true) :
    { a with result := result, seqState := st, intFlag := flag }.Legal p := by
  obtain ⟨-, -, -, ring⟩ := ha
  exact ⟨fun h => (by rw [live] at h; cases h), hflag, hbound, ring⟩

end

theorem AdcChange.legal {s : State} {a b : AdcState} (h : AdcChange s a b) (hp : s.params.Admitted)
    (ha : a.Legal s.params) : b.Legal s.params := by
  have ⟨_, flag, pass, _⟩ := ha
  cases h with
  | construct _ r => exact ⟨nofun, by simp [AdcState.reset], by simp [AdcState.reset], nofun⟩
  | release => exact AdcState.legal_reset _
  | bindTask dims list live unbound valid =>
    have idle : ¬a.seqState ≠ .idle := fun h => absurd (pass h) (by simp [unbound])
    exact ⟨fun h => (by rw [show a.st = .uninit from h] at live; cases live), flag, fun h => absurd h idle,
      fun _ => AdcState.ringLegal_bindTask hp list valid⟩
  | trigger _ _ live => exact AdcState.legal_of_ring ha live rfl rfl rfl rfl id
  | sticky _ _ _ live => exact AdcState.legal_of_ring ha live rfl rfl rfl rfl id
  | startPass live bound idle =>
    have off : a.intFlag = true ↔ SeqState.converting = .complete := by simp [flag, idle]
    exact AdcState.legal_setSequencer ha live a.result off fun _ => bound
  | completePass result busy =>
    obtain ⟨live, bound, -⟩ := of_decide_eq_true busy
    exact AdcState.legal_setSequencer ha live result (by simp) fun _ => bound
  | resetSequencer live => exact AdcState.legal_setSequencer ha live a.result (by simp) (by simp)
  | beginBlock live policy =>
    exact AdcState.legal_of_ring ha live rfl rfl rfl rfl fun hr => AdcState.ringLegal_beginBlock hr policy
  | countSequence live left =>
    exact AdcState.legal_of_ring ha live rfl rfl rfl rfl fun hr => AdcState.ringLegal_countSequence hr (left hr.1)
  | publish live last =>
    have e := a.setFreeIsFull_eq
    exact AdcState.legal_of_ring ha live (by rw [e]) (by rw [e]) (by rw [e]) (by rw [e])
      fun hr => AdcState.ringLegal_setFreeIsFull hr last
  | free live =>
    have e := a.setFullIsFree_eq s.params
    exact AdcState.legal_of_ring ha live (by rw [e]) (by rw [e]) (by rw [e]) (by rw [e])
      AdcState.ringLegal_setFullIsFree

/-- What the clock table says of the ADC (10_state.md R23). -/
abbrev AdcState.Clocked (s : State) (a : AdcState) : Prop :=
  a.st ≠ .uninit → s.drvReady = true ∧ a.clock.toNat ≤ s.sysclk.toNat

theorem AdcChange.clocked {s : State} {a b : AdcState} (h : AdcChange s a b) (ha : a.Clocked s) : b.Clocked s := by
  cases h with
  | construct tgt r ready found =>
    exact fun _ => ⟨ready, (toNat_ofNat_le r.achieved).trans (divSearch_le found).2.1⟩
  | release => exact fun h => absurd rfl h
  | publish => rw [AdcState.setFreeIsFull_eq]; exact ha
  | free => rw [AdcState.setFullIsFree_eq]; exact ha
  | bindTask | trigger | sticky | startPass | completePass | resetSequencer | beginBlock | countSequence => exact ha

/-! ### The sample RAM -/

/-- Words stored inside the sample RAM have a value there (10_state.md R49). -/
theorem State.memoryLegal_sampleWrites {s : State} (hs : s.MemoryLegal) {i : Nat} {vs : List Half}
    (inside : i + vs.length ≤ s.params.adcBufWords) : (s.sampleWrites i vs).MemoryLegal := by
  obtain ⟨⟨hram, hmarks⟩, hcells, hwritten⟩ := hs
  refine ⟨⟨s.wf_sampleWrites i vs hram, s.pairwise_sampleWrites i vs hmarks⟩, fun c hc => ?_, fun j hj => ?_⟩
  · rw [State.sampleWrites_params]
    rcases s.mem_sram_sampleWrites i vs c hc with h | h
    · omega
    · exact hcells c h
  · rw [State.sampleWrites_params]
    by_cases hnew : i ≤ j ∧ j < i + vs.length
    · obtain ⟨k, rfl⟩ := Nat.exists_eq_add_of_le hnew.1
      rw [s.readHalf_sampleWrites_same i k vs (by omega)]
      exact ⟨by omega, rfl⟩
    · have hold : j ∈ s.written := ((s.mem_written_sampleWrites i j vs).mp hj).resolve_left hnew
      rw [s.readHalf_sampleWrites_other i j vs (by omega)]
      exact hwritten j hold

/-! ### The whole state -/

variable {s t : State}

theorem Quiet.legal (q : Quiet s t) (hs : s.Legal) : t.Legal := by
  have hat := State.pwmAt_congr q.pwm
  simp only [State.Legal, State.ClockLegal, State.ModulesLegal, State.MemoryLegal, State.MemoryCanonical, q.params,
    q.drvReady, q.sysclk, q.adc, q.sram, q.written, hat]
  exact hs

/-- Recording the first clock: nothing is constructed before it (10_state.md R23, 40_clock_divider.md R122). -/
theorem State.legal_setClock (hs : s.Legal) {rate : Word} (unset : s.drvReady = false) (pos : rate ≠ 0#32) :
    { s with sysclk := rate, drvReady := true }.Legal := by
  obtain ⟨hp, ⟨-, hmod, hadc⟩, hmodules, hadcLegal, hmem⟩ := hs
  have notReady : s.drvReady ≠ true := by simp [unset]
  exact ⟨hp, ⟨⟨fun _ => pos, fun _ => rfl⟩, fun m h => absurd (hmod m h).1 notReady,
    fun h => absurd (hadc h).1 notReady⟩,
    hmodules, hadcLegal, hmem⟩

theorem State.legal_setPwm (hs : s.Legal) {m : ModuleIndex} {x : PwmModule} (inRange : m.toNat < s.params.pwmModules)
    (h : ModuleChange s (s.pwmAt m) x) : (s.setPwm m x).Legal := by
  obtain ⟨hp, ⟨hclk, hmod, hadc⟩, hmodules, hadcLegal, hmem⟩ := hs
  refine ⟨hp, ⟨hclk, fun k => ?_, hadc⟩, fun k => ?_, hadcLegal, hmem⟩ <;> rw [State.pwmAt_setPwm] <;>
    split_ifs with hk
  · exact h.clocked (hmod m)
  · exact hmod k
  · subst hk
    exact ⟨h.legal hp (hmodules k).1, fun hout => absurd hout (Nat.not_le.mpr inRange)⟩
  · exact hmodules k

theorem State.legal_setAdc (hs : s.Legal) {a : AdcState} (h : AdcChange s s.adc a) : { s with adc := a }.Legal := by
  obtain ⟨hp, ⟨hclk, hmod, hadc⟩, hmodules, hadcLegal, hmem⟩ := hs
  exact ⟨hp, ⟨hclk, hmod, h.clocked hadc⟩, hmodules, h.legal hp hadcLegal, hmem⟩

theorem State.legal_clearWritten (hs : s.Legal) : s.clearWritten.Legal := by
  obtain ⟨hp, hclk, hmodules, hadcLegal, ⟨⟨hram, -⟩, hcells, -⟩⟩ := hs
  exact ⟨hp, hclk, hmodules, hadcLegal, ⟨hram, List.Pairwise.nil⟩, hcells, nofun⟩

theorem State.legal_sampleWrites (hs : s.Legal) {i : Nat} {vs : List Half}
    (inside : i + vs.length ≤ s.params.adcBufWords) : (s.sampleWrites i vs).Legal := by
  obtain ⟨hp, hclk, hmodules, hadcLegal, hmem⟩ := hs
  have hmem' := State.memoryLegal_sampleWrites hmem inside
  rw [State.sampleWrites_eq] at hmem' ⊢
  exact ⟨hp, hclk, hmodules, hadcLegal, hmem'⟩

theorem Change.legal (h : Change s t) (hs : s.Legal) : t.Legal := by
  cases h with
  | quiet q => exact q.legal hs
  | clock rate unset pos => exact State.legal_setClock hs unset pos
  | slot m inRange h => exact State.legal_setPwm hs inRange h
  | adc h => exact State.legal_setAdc hs h
  | clearWritten => exact State.legal_clearWritten hs
  | sampleWrites i vs inside => exact State.legal_sampleWrites hs inside

/-- Settles O15: every step is a chain of changes, and each of them keeps a legal state legal. -/
theorem stepKeepsLegal : Obligations.StepKeepsLegal :=
  fun _ _ hs h => Changes.keeps Change.legal (changes_step h) hs

end Sys2Proof.Machine
end

section
/-! PROOF. The history never decides a step (10_state.md R50): every operation, and then every command and every
input, commutes with putting an older history in front. -/

namespace Sys2Proof.Machine

open Sys2Proof.Statements

/-! ### Reading a state with an older history -/

section
variable (h : List Event) (s : State)

@[simp] theorem older_arg0 : (withOlderHistory h s).arg0 = s.arg0 := rfl
@[simp] theorem older_arg1 : (withOlderHistory h s).arg1 = s.arg1 := rfl
@[simp] theorem older_sysclk : (withOlderHistory h s).sysclk = s.sysclk := rfl
@[simp] theorem older_params : (withOlderHistory h s).params = s.params := rfl
@[simp] theorem older_pwmAt (m : ModuleIndex) : (withOlderHistory h s).pwmAt m = s.pwmAt m := rfl
@[simp] theorem older_res1 : (withOlderHistory h s).res1 = s.res1 := rfl

/-! ### Writing it -/

theorem older_ite {c : Prop} [Decidable c] {a b a' b' : State} (ha : a' = withOlderHistory h a)
    (hb : b' = withOlderHistory h b) : (if c then a' else b') = withOlderHistory h (if c then a else b) := by
  split_ifs
  · exact ha
  · exact hb

@[simp] theorem older_finish (w : Word) (c : Code) :
    (withOlderHistory h s).finish w c = withOlderHistory h (s.finish w c) := by
  simp [State.finish, withOlderHistory]

@[simp] theorem older_recordAll (es : List Event) :
    (withOlderHistory h s).recordAll es = withOlderHistory h (s.recordAll es) := by
  simp [State.recordAll, withOlderHistory]

@[simp] theorem older_record (e : Event) :
    (withOlderHistory h s).record e = withOlderHistory h (s.record e) :=
  older_recordAll h s [e]

theorem record_of_older {t' t : State} (ht : t' = withOlderHistory h t) (e : Event) :
    t'.record e = withOlderHistory h (t.record e) := by
  rw [ht, older_record]

@[simp] theorem older_setRes0 (v : Word) :
    (withOlderHistory h s).setRes0 v = withOlderHistory h (s.setRes0 v) := rfl

@[simp] theorem older_setRes0Nat (v : Option Nat) :
    (withOlderHistory h s).setRes0Nat v = withOlderHistory h (s.setRes0Nat v) := by
  cases v with
  | none => rfl
  | some n => exact older_ite h rfl rfl

@[simp] theorem older_setRes1Nat (v : Option Nat) :
    (withOlderHistory h s).setRes1Nat v = withOlderHistory h (s.setRes1Nat v) := by
  cases v with
  | none => rfl
  | some n => exact older_ite h rfl rfl

@[simp] theorem older_setRes0Readback (x t clk : Nat) :
    (withOlderHistory h s).setRes0Readback x t clk = withOlderHistory h (s.setRes0Readback x t clk) := by
  unfold State.setRes0Readback
  cases ticksToNs t clk with
  | none => rfl
  | some n => exact older_ite h rfl rfl

@[simp] theorem older_setResolution (r : Option Nat) :
    (withOlderHistory h s).setResolution r = withOlderHistory h (s.setResolution r) := by
  simp only [State.setResolution, older_setRes1Nat, older_setRes0Nat, older_res1]

@[simp] theorem older_readSample (i : Nat) :
    (withOlderHistory h s).readSample i = withOlderHistory h (s.readSample i) := by
  have hfault : (withOlderHistory h s).raiseFault .unwrittenSample =
      withOlderHistory h (s.raiseFault .unwrittenSample) := older_ite h rfl rfl
  refine older_ite h rfl ?_
  rw [hfault]; rfl

@[simp] theorem older_sampleWrites (i : Nat) (vs : List Half) :
    (withOlderHistory h s).sampleWrites i vs = withOlderHistory h (s.sampleWrites i vs) := by
  induction vs generalizing s i with
  | nil => rfl
  | cons v vs ih => exact ih (s.sampleWrite i v) (i + 1)

@[simp] theorem older_startConv (src : ConvSource) :
    (withOlderHistory h s).startConv src = withOlderHistory h (s.startConv src) :=
  older_ite h (record_of_older h (by rfl) _) rfl

/-- The sync chain reads the modules only. -/
@[simp] theorem older_syncInEvents (fuel : Nat) (m : ModuleIndex) :
    (withOlderHistory h s).syncInEvents fuel m = s.syncInEvents fuel m := by
  induction fuel generalizing m with
  | zero => rfl
  | succ fuel ih => simp only [State.syncInEvents, older_pwmAt, ih]; rfl

@[simp] theorem older_syncPulseEvents (m : ModuleIndex) :
    (withOlderHistory h s).syncPulseEvents m = s.syncPulseEvents m := by
  simp only [State.syncPulseEvents, State.modulesAfter, older_params, older_syncInEvents]

@[simp] theorem older_syncPulse (m : ModuleIndex) :
    (withOlderHistory h s).syncPulse m = withOlderHistory h (s.syncPulse m) := by
  simp only [State.syncPulse, older_syncPulseEvents, older_recordAll]

/-! ### Answers -/

/-- An answer for the state behind an older history is the same answer, with that history in front. -/
abbrev Agrees (h : List Event) (r' r : Result) : Prop := r' = mapNext (withOlderHistory h) r

variable {h s}

theorem agrees_next {t' t : State} (ht : t' = withOlderHistory h t) : Agrees h (.next t') (.next t) :=
  congrArg Host.Outcome.next ht

theorem agrees_fault (f : Fault) : Agrees h (.fault f) (.fault f) := rfl

theorem agrees_ite {c : Prop} [Decidable c] {a b a' b' : Result} (ha : Agrees h a' a) (hb : Agrees h b' b) :
    Agrees h (if c then a' else b') (if c then a else b) := by
  split_ifs
  · exact ha
  · exact hb

theorem agrees_endWith {i : Instr} {c : Code} {t' t : State} (ht : t' = withOlderHistory h t) :
    Agrees h (endWith i c t') (endWith i c t) :=
  agrees_next (by rw [ht, older_finish])

theorem agrees_updateModule {i : Instr} {m : ModuleIndex} {x : PwmModule} :
    Agrees h (updateModule i m (withOlderHistory h s) x) (updateModule i m s x) :=
  agrees_endWith rfl

theorem agrees_answer {i : Instr} {v : Word} {t' t : State} (ht : t' = withOlderHistory h t) :
    Agrees h (answer i t' v) (answer i t v) :=
  agrees_endWith (by rw [ht, older_setRes0])

theorem agrees_answerNat {i : Instr} {v : Option Nat} :
    Agrees h (answerNat i (withOlderHistory h s) v) (answerNat i s v) :=
  agrees_endWith (older_setRes0Nat h s v)

theorem agrees_onModule {i : Instr} {m : ModuleIndex} {k' k : PwmModule → Result}
    (hk : ∀ x, Agrees h (k' x) (k x)) :
    Agrees h (onModule i m (withOlderHistory h s) k') (onModule i m s k) :=
  agrees_ite (hk _) (agrees_endWith rfl)

theorem agrees_onAdc {i : Instr} {k' k : Result} (hk : Agrees h k' k) :
    Agrees h (onAdc i (withOlderHistory h s) k') (onAdc i s k) :=
  agrees_ite hk (agrees_endWith rfl)

theorem agrees_onTask {i : Instr} {k' k : Result} (hk : Agrees h k' k) :
    Agrees h (onTask i (withOlderHistory h s) k') (onTask i s k) :=
  agrees_onAdc (agrees_ite hk (agrees_endWith rfl))

end

/-! ### Commands that decide by a search -/

section
variable (h : List Event) (s : State) (m : ModuleIndex)

theorem agrees_clkdivCalc (table : DivTable) :
    Agrees h (execClkdivCalc table (withOlderHistory h s)) (execClkdivCalc table s) := by
  simp only [execClkdivCalc, older_params, older_arg0, older_arg1]
  cases divideBy s.params table s.arg0.toNat s.arg1.toNat with
  | none => exact agrees_endWith rfl
  | some r => exact agrees_endWith rfl

theorem agrees_pwmConstruct (mode : BitVec 2) :
    Agrees h (execPwmConstruct m mode (withOlderHistory h s)) (execPwmConstruct m mode s) := by
  unfold execPwmConstruct
  cases Mode.ofBits mode with
  | none => exact agrees_endWith rfl
  | some md =>
    refine agrees_ite ?_ (agrees_endWith rfl)
    simp only [older_params, older_sysclk, older_arg0]
    cases pwmDivide s.params s.sysclk.toNat s.arg0.toNat with
    | none => exact agrees_endWith rfl
    | some r => exact agrees_endWith rfl

theorem agrees_pwmStart (n : BitVec 4) :
    Agrees h (execPwmStart m n (withOlderHistory h s)) (execPwmStart m n s) :=
  agrees_onModule fun _ => agrees_ite (agrees_endWith (record_of_older h (by rfl) _)) (agrees_endWith rfl)

theorem agrees_chpSetFreq : Agrees h (execChpSetFreq m (withOlderHistory h s)) (execChpSetFreq m s) :=
  agrees_onModule fun x => by
    simp only [older_params, older_sysclk, older_arg0]
    cases chopperFreqCode s.sysclk.toNat s.params.chpPrescale s.arg0.toNat with
    | none => exact agrees_endWith rfl
    | some k => exact agrees_updateModule

theorem agrees_etSetEvent (x : Soc) (e : BitVec 3) :
    Agrees h (execEtSetEvent m x e (withOlderHistory h s)) (execEtSetEvent m x e s) :=
  agrees_onModule fun _ => by
    cases CtrEvent.ofCode e with
    | none => exact agrees_endWith rfl
    | some _ => exact agrees_updateModule

theorem agrees_adcConstruct : Agrees h (execAdcConstruct (withOlderHistory h s)) (execAdcConstruct s) := by
  refine agrees_ite ?_ (agrees_endWith rfl)
  simp only [older_params, older_sysclk, older_arg0]
  cases adcDivide s.params s.sysclk.toNat s.arg0.toNat with
  | none => exact agrees_endWith rfl
  | some r => exact agrees_endWith rfl

theorem agrees_adcSetTrigger (src : BitVec 2) :
    Agrees h (execAdcSetTrigger m src (withOlderHistory h s)) (execAdcSetTrigger m src s) := by
  unfold execAdcSetTrigger
  rcases TrigSrc.ofBits src with _ | _ | _ | _
  · exact agrees_endWith rfl
  · exact agrees_onAdc (agrees_endWith rfl)
  · exact agrees_onAdc (agrees_ite (agrees_endWith rfl) (agrees_endWith rfl))
  · exact agrees_onAdc (agrees_ite (agrees_endWith rfl) (agrees_endWith rfl))

/-! ### Commands with an operation of their own -/

theorem agrees_pwmGetBounds : Agrees h (execPwmGetBounds m (withOlderHistory h s)) (execPwmGetBounds m s) :=
  agrees_onModule fun _ => agrees_endWith (by rw [older_setRes0Nat, older_setRes1Nat]; rfl)

theorem agrees_syncSynchronize :
    Agrees h (execSyncSynchronize m (withOlderHistory h s)) (execSyncSynchronize m s) :=
  agrees_onModule fun _ =>
    agrees_ite (agrees_answer rfl) (agrees_answer (older_syncPulse h s m))

theorem agrees_pwmGetResolution :
    Agrees h (execPwmGetResolution m (withOlderHistory h s)) (execPwmGetResolution m s) :=
  agrees_onModule fun _ => agrees_ite (agrees_endWith (older_setResolution h s _)) (agrees_endWith rfl)

theorem agrees_adcTrigger : Agrees h (execAdcTrigger (withOlderHistory h s)) (execAdcTrigger s) :=
  agrees_onTask (agrees_endWith (older_startConv h s _))

theorem agrees_adcReadSample : Agrees h (execAdcReadSample (withOlderHistory h s)) (execAdcReadSample s) :=
  agrees_onTask
    (agrees_ite (agrees_ite (agrees_endWith (older_readSample h s _)) (agrees_fault _)) (agrees_endWith rfl))

theorem agrees_dbGetRise (set : Bool) :
    Agrees h (execDbGetRise m set (withOlderHistory h s)) (execDbGetRise m set s) :=
  agrees_onModule fun _ =>
    agrees_ite (agrees_answer rfl) (agrees_endWith (older_setRes0Readback h s _ _ _))

theorem agrees_dbGetFall (set : Bool) :
    Agrees h (execDbGetFall m set (withOlderHistory h s)) (execDbGetFall m set s) :=
  agrees_onModule fun _ =>
    agrees_ite (agrees_answer rfl) (agrees_endWith (older_setRes0Readback h s _ _ _))

/-! ### Every command -/

/-- No command reads the history: by the command's shape, each part of its answer agrees. -/
theorem agrees_exec (i : Instr) : Agrees h (exec i (withOlderHistory h s)) (exec i s) := by
  cases i with
  | nop => exact agrees_endWith rfl
  | drvInit => exact agrees_ite (agrees_endWith rfl) (agrees_ite (agrees_endWith rfl) (agrees_endWith rfl))
  | clkdivCalc table => exact agrees_clkdivCalc h s table
  | pwmConstruct m mode => exact agrees_pwmConstruct h s m mode
  | pwmRelease m => exact agrees_onModule fun _ => agrees_updateModule
  | pwmStart m n => exact agrees_pwmStart h s m n
  | pwmSetTask m n => exact agrees_onModule fun _ => agrees_ite agrees_updateModule (agrees_endWith rfl)
  | pwmStop m => exact agrees_onModule fun _ => agrees_ite agrees_updateModule (agrees_endWith rfl)
  | pwmGetFreq m set =>
    exact agrees_onModule fun _ =>
      agrees_ite (agrees_ite (agrees_answer rfl) agrees_answerNat) (agrees_endWith rfl)
  | pwmGetDuty m c set =>
    exact agrees_onModule fun _ =>
      agrees_ite (agrees_ite (agrees_answer rfl) agrees_answerNat) (agrees_endWith rfl)
  | pwmGetBounds m => exact agrees_pwmGetBounds h s m
  | pwmGetState m => exact agrees_ite (agrees_endWith rfl) (agrees_endWith rfl)
  | pwmReadReg m r => exact agrees_onModule fun _ => agrees_answer rfl
  | dbSetRise m => exact agrees_onModule fun _ => agrees_updateModule
  | dbSetFall m => exact agrees_onModule fun _ => agrees_updateModule
  | dbGetRise m set => exact agrees_dbGetRise h s m set
  | dbGetFall m set => exact agrees_dbGetFall h s m set
  | tglDisable m t =>
    show Agrees h (execTglDisable m t (withOlderHistory h s)) (execTglDisable m t s)
    exact agrees_onModule fun _ => agrees_answer rfl
  | tglEnable m t status => exact agrees_onModule fun _ => agrees_ite agrees_updateModule (agrees_endWith rfl)
  | tglRead m t => exact agrees_onModule fun _ => agrees_answer rfl
  | chpSetFreq m => exact agrees_chpSetFreq h s m
  | chpSetDuty m => exact agrees_onModule fun _ => agrees_ite agrees_updateModule (agrees_endWith rfl)
  | chpSetPulse m => exact agrees_onModule fun _ => agrees_updateModule
  | chpGetFreq m set =>
    show Agrees h (execChpGetFreq m set (withOlderHistory h s)) (execChpGetFreq m set s)
    exact agrees_onModule fun _ => agrees_ite (agrees_answer rfl) agrees_answerNat
  | chpGetDuty m set =>
    show Agrees h (execChpGetDuty m set (withOlderHistory h s)) (execChpGetDuty m set s)
    exact agrees_onModule fun _ => agrees_ite (agrees_answer rfl) agrees_answerNat
  | chpGetPulse m set =>
    show Agrees h (execChpGetPulse m set (withOlderHistory h s)) (execChpGetPulse m set s)
    exact agrees_onModule fun _ => agrees_ite (agrees_answer rfl) agrees_answerNat
  | syncSetEvent m e => exact agrees_onModule fun _ => agrees_updateModule
  | syncGetEvent m => exact agrees_onModule fun _ => agrees_answer rfl
  | syncIsSynchronizing m => exact agrees_onModule fun _ => agrees_answer rfl
  | syncSynchronize m => exact agrees_syncSynchronize h s m
  | phsSet m => exact agrees_onModule fun _ => agrees_ite (agrees_endWith rfl) agrees_updateModule
  | phsGet m set =>
    show Agrees h (execPhsGet m set (withOlderHistory h s)) (execPhsGet m set s)
    exact agrees_onModule fun _ => agrees_ite (agrees_answer rfl) agrees_answerNat
  | phsSetDir m dir => exact agrees_onModule fun _ => agrees_updateModule
  | phsGetDir m => exact agrees_onModule fun _ => agrees_answer rfl
  | hrEnable m => exact agrees_onModule fun _ => agrees_ite (agrees_endWith rfl) agrees_updateModule
  | hrDisable m => exact agrees_onModule fun _ => agrees_updateModule
  | hrIsEnabled m => exact agrees_onModule fun _ => agrees_answer rfl
  | pwmGetResolution m => exact agrees_pwmGetResolution h s m
  | etSetEvent m x e => exact agrees_etSetEvent h s m x e
  | etResetEvent m x => exact agrees_onModule fun _ => agrees_updateModule
  | etGetEvent m x => exact agrees_onModule fun _ => agrees_answer rfl
  | adcConstruct => exact agrees_adcConstruct h s
  | adcRelease => exact agrees_onAdc (agrees_endWith rfl)
  | adcGetClock => exact agrees_onAdc (agrees_answer rfl)
  | adcRegisterTask =>
    exact agrees_onAdc (agrees_ite (agrees_endWith rfl) (agrees_ite (agrees_endWith rfl) (agrees_endWith rfl)))
  | adcSetTrigger m src => exact agrees_adcSetTrigger h s m src
  | adcTrigger => exact agrees_adcTrigger h s
  | adcGetFreeIndex => exact agrees_onTask (agrees_answer rfl)
  | adcGetFullIndex => exact agrees_onTask (agrees_answer rfl)
  | adcSetFullIsFree => exact agrees_onTask (agrees_ite (agrees_endWith rfl) (agrees_endWith rfl))
  | adcIsFilled => exact agrees_onTask (agrees_answer rfl)
  | adcReadSample => exact agrees_adcReadSample h s
  | adcGetStatus => exact agrees_onAdc (agrees_endWith rfl)
  | adcClearStatus mask => exact agrees_onAdc (agrees_endWith rfl)

/-! ### The environment's steps -/

@[simp] theorem older_loadAtZero (e : CtrEvent) :
    (withOlderHistory h s).loadAtZero m e = withOlderHistory h (s.loadAtZero m e) :=
  older_ite h (record_of_older h (by rfl) _) rfl

@[simp] theorem older_socLine (x : Soc) (e : CtrEvent) :
    (withOlderHistory h s).socLine m x e = withOlderHistory h (s.socLine m x e) := by
  have hpulse : (withOlderHistory h s).socPulse m x = withOlderHistory h (s.socPulse m x) := by
    rw [State.socPulse, older_record, older_startConv]
    exact older_ite h rfl rfl
  exact older_ite h hpulse rfl

@[simp] theorem older_syncByEvent (e : CtrEvent) :
    (withOlderHistory h s).syncByEvent m e = withOlderHistory h (s.syncByEvent m e) :=
  older_ite h (older_syncPulse h s m) rfl

theorem agrees_evCtr (e : CtrEvent) : Agrees h (evCtr m e (withOlderHistory h s)) (evCtr m e s) := by
  refine agrees_ite (agrees_next ?_) (agrees_fault _)
  simp only [State.counterEvent, older_record, older_loadAtZero, older_socLine, older_syncByEvent]

theorem agrees_evSyncIn : Agrees h (evSyncIn (withOlderHistory h s)) (evSyncIn s) :=
  agrees_next (by simp only [State.syncIn, older_params, older_syncInEvents, older_recordAll])

theorem agrees_evConv (v : List Half) : Agrees h (evConv v (withOlderHistory h s)) (evConv v s) :=
  agrees_ite (agrees_ite (agrees_next (record_of_older h (by rfl) _)) (agrees_fault _)) (agrees_fault _)

@[simp] theorem older_resetSequencer :
    (withOlderHistory h s).resetSequencer = withOlderHistory h s.resetSequencer := rfl

@[simp] theorem older_dropNewest : (withOlderHistory h s).dropNewest = withOlderHistory h s.dropNewest :=
  record_of_older h (by rfl) _

@[simp] theorem older_beginBlock : (withOlderHistory h s).beginBlock = withOlderHistory h s.beginBlock :=
  older_ite h
    (older_ite h (record_of_older h (by rfl) _) rfl) rfl

@[simp] theorem older_storeSequence : (withOlderHistory h s).storeSequence = withOlderHistory h s.storeSequence := by
  rw [State.storeSequence, older_sampleWrites, older_record]; rfl

@[simp] theorem older_publishBlock (b : BitVec 8) :
    (withOlderHistory h s).publishBlock b = withOlderHistory h (s.publishBlock b) :=
  older_ite h (record_of_older h (by rfl) _) rfl

theorem agrees_captureSequence : Agrees h (withOlderHistory h s).captureSequence s.captureSequence := by
  simp only [State.captureSequence, older_dropNewest, older_beginBlock, older_storeSequence, older_publishBlock,
    older_resetSequencer]
  exact agrees_ite (agrees_next rfl) (agrees_ite (agrees_next rfl) (agrees_fault _))

theorem agrees_evCapture : Agrees h (evCapture (withOlderHistory h s)) (evCapture s) :=
  agrees_ite (agrees_ite (agrees_captureSequence h s) (agrees_next rfl)) (agrees_fault _)

/-! ### Every step -/

theorem agrees_hostRead (addr bytes : Nat) :
    Agrees h (hostRead addr bytes (withOlderHistory h s)) (hostRead addr bytes s) := by
  simp only [hostRead, older_params]
  cases windowReg s.params addr bytes with
  | none => exact agrees_fault _
  | some r => cases r <;> rfl

theorem agrees_runCommand (w : Word) : Agrees h (runCommand w (withOlderHistory h s)) (runCommand w s) := by
  unfold runCommand
  cases decode w with
  | ok i => exact agrees_exec h s i
  | error _ => exact agrees_next (older_finish h s w .illegal)

theorem agrees_hostWrite (addr bytes : Nat) (v : Word) :
    Agrees h (hostWrite addr bytes v (withOlderHistory h s)) (hostWrite addr bytes v s) := by
  simp only [hostWrite, older_params]
  cases windowReg s.params addr bytes with
  | none => exact agrees_fault _
  | some r =>
    cases r with
    | cmd => exact agrees_runCommand h s v
    | arg0 | arg1 | arg2 | arg3 | res0 | res1 | status | id | reserved => rfl

theorem agrees_runInput (i : Input) : Agrees h (runInput i (withOlderHistory h s)) (runInput i s) := by
  cases i with
  | hostWrite addr bytes v => exact agrees_hostWrite h s addr bytes v
  | hostRead addr bytes => exact agrees_hostRead h s addr bytes
  | evCtr m e => exact agrees_evCtr h s m e
  | evSyncIn => exact agrees_evSyncIn h s
  | evConv v => exact agrees_evConv h s v
  | evCapture => exact agrees_evCapture h s

end

/-- Settles O17: the step takes the next input of the same list, and every input agrees. -/
theorem historyNeverDecidesAStep : Obligations.HistoryNeverDecidesAStep := by
  intro h s
  cases hin : s.inputs with
  | nil => rw [step_nil s hin, step_nil (withOlderHistory h s) hin]; rfl
  | cons i rest =>
    rw [step_cons hin, step_cons (s := withOlderHistory h s) hin]
    exact agrees_runInput h { s with inputs := rest } i

end Sys2Proof.Machine
end

section
/-! PROOF. The count of completed, unfreed blocks of a ring (10_state.md R53 (c)). -/

namespace Sys2Proof.Machine

section
variable {a : AdcState}

/-- Counting up wraps at the end of the ring (47_ring_buffer.md R280). -/
theorem AdcState.toNat_inc_of_lt {x : BitVec 8} (hx : x.toNat < a.nBlocks.toNat) :
    (a.inc x).toNat = if x.toNat + 1 = a.nBlocks.toNat then 0 else x.toNat + 1 := by
  rw [AdcState.toNat_inc (by omega)]
  split_ifs with h
  · rw [h, Nat.mod_self]
  · exact Nat.mod_eq_of_lt (by omega)

/-- A full ring holds every block (47_ring_buffer.md R280). -/
theorem AdcState.fullBlocks_of_filled (h : a.isFilled = true) : a.fullBlocks = a.nBlocks.toNat := if_pos h

/-- A ring that is not full holds the blocks from `full` up to `free` (10_state.md R53 (c)). -/
theorem AdcState.fullBlocks_of_not_filled (h : a.isFilled = false) (hfree : a.free.toNat < a.nBlocks.toNat)
    (hfull : a.full.toNat < a.nBlocks.toNat) :
    a.fullBlocks =
      if a.full.toNat ≤ a.free.toNat then a.free.toNat - a.full.toNat
      else a.free.toNat + a.nBlocks.toNat - a.full.toNat := by
  rw [AdcState.fullBlocks, h, if_neg (by decide)]
  split_ifs with hle
  · rw [Nat.sub_add_comm hle, Nat.add_mod_right, Nat.mod_eq_of_lt (by omega)]
  · exact Nat.mod_eq_of_lt (by omega)

theorem AdcState.ringEmpty_iff : a.ringEmpty = true ↔ a.isFilled = false ∧ a.free.toNat = a.full.toNat := by
  simp [AdcState.ringEmpty, BitVec.toNat_inj]

variable (hfree : a.free.toNat < a.nBlocks.toNat) (hfull : a.full.toNat < a.nBlocks.toNat)
include hfree hfull

theorem AdcState.fullBlocks_setFreeIsFull : a.setFreeIsFull.fullBlocks = min (a.fullBlocks + 1) a.nBlocks.toNat := by
  have hinc := AdcState.toNat_inc_of_lt hfree
  have e := a.setFreeIsFull_eq
  cases hf : a.isFilled with
  | true =>
    have hnew : a.setFreeIsFull.isFilled = true := by rw [e]; simp [hf]
    have hn : a.setFreeIsFull.nBlocks = a.nBlocks := by rw [e]
    rw [AdcState.fullBlocks_of_filled hf, AdcState.fullBlocks_of_filled hnew, hn]
    omega
  | false =>
    have hold := AdcState.fullBlocks_of_not_filled hf hfree hfull
    rw [hf] at e
    by_cases hmeet : a.inc a.free = a.full
    · -- the last free block is completed
      have hnew : a.setFreeIsFull.fullBlocks = a.nBlocks.toNat := by
        rw [e]; exact AdcState.fullBlocks_of_filled (by simp [hmeet])
      rw [hmeet] at hinc
      split_ifs at hold hinc <;> omega
    · have hne : (a.inc a.free).toNat ≠ a.full.toNat := fun h => hmeet (BitVec.eq_of_toNat_eq h)
      have hnew := AdcState.fullBlocks_of_not_filled (a := { a with free := a.inc a.free, isFilled := false }) rfl
        (AdcState.inc_lt (by omega) _) hfull
      have hset : a.setFreeIsFull = { a with free := a.inc a.free, isFilled := false } := by
        rw [e]; simp [hmeet]
      rw [hset, hnew]
      simp only
      split_ifs at hold hinc ⊢ <;> omega

theorem AdcState.ringEmpty_iff_fullBlocks : a.ringEmpty = true ↔ a.fullBlocks = 0 := by
  rw [AdcState.ringEmpty_iff]
  cases hf : a.isFilled with
  | true => rw [AdcState.fullBlocks_of_filled hf]; simp; omega
  | false =>
    rw [AdcState.fullBlocks_of_not_filled hf hfree hfull]
    split_ifs <;> simp <;> omega

theorem AdcState.isFilled_iff_fullBlocks : a.isFilled = true ↔ a.fullBlocks = a.nBlocks.toNat := by
  cases hf : a.isFilled with
  | true => simp [AdcState.fullBlocks_of_filled hf]
  | false =>
    rw [AdcState.fullBlocks_of_not_filled hf hfree hfull]
    split_ifs <;> simp <;> omega

theorem AdcState.fullBlocks_setFullIsFree (p : Params) (same : a.isFilled = true → a.free = a.full)
    (hne : a.ringEmpty = false) : (a.setFullIsFree p).fullBlocks + 1 = a.fullBlocks := by
  have hinc := AdcState.toNat_inc_of_lt hfull
  have hne' : ¬(a.isFilled = false ∧ a.free.toNat = a.full.toNat) := fun h => by
    rw [AdcState.ringEmpty_iff.mpr h] at hne; cases hne
  have hold : a.fullBlocks = if a.full.toNat < a.free.toNat then a.free.toNat - a.full.toNat
      else a.free.toNat + a.nBlocks.toNat - a.full.toNat := by
    cases hf : a.isFilled with
    | true => rw [AdcState.fullBlocks_of_filled hf, same hf, if_neg (by omega)]; omega
    | false =>
      rw [AdcState.fullBlocks_of_not_filled hf hfree hfull]
      have apart : a.free.toNat ≠ a.full.toNat := fun h => hne' ⟨hf, h⟩
      split_ifs <;> omega
  rcases AdcState.setFullIsFree_cases p a with ⟨-, hlast, -, h⟩ | h <;> rw [h]
  · -- the one block left is freed, and the ring starts again
    have hnew := AdcState.fullBlocks_of_not_filled (a := { a with free := 0#8, full := 0#8, isFilled := false }) rfl
      (Nat.zero_lt_of_lt hfree) (Nat.zero_lt_of_lt hfree)
    rw [← hlast] at hinc
    simp only [le_refl, if_true, Nat.sub_self] at hnew
    split_ifs at hold hinc <;> omega
  · have hnew := AdcState.fullBlocks_of_not_filled (a := { a with full := a.inc a.full, isFilled := false }) rfl hfree
      (AdcState.inc_lt (by omega) _)
    rw [hnew]
    simp only
    split_ifs at hold hinc ⊢ <;> omega

end

/-- Settles O56: both mutators move one position by one, and the count is the distance between the positions. -/
theorem ringMutatorsCountBlocks : Obligations.RingMutatorsCountBlocks :=
  fun p _ hfree hfull same =>
    ⟨AdcState.fullBlocks_setFreeIsFull hfree hfull, AdcState.ringEmpty_iff_fullBlocks hfree hfull,
      AdcState.isFilled_iff_fullBlocks hfree hfull, AdcState.fullBlocks_setFullIsFree hfree hfull p same⟩

end Sys2Proof.Machine
end

section
/-! PROOF. The status word and the register views (10_state.md R22, R32 to R36). -/

namespace Sys2Proof.Machine

/-- The `STATUS` word is the code in its low byte and the opcode in the next (10_state.md R22). -/
theorem State.toNat_statusWord (s : State) :
    s.statusWord.toNat = s.statusCode.bits.toNat + 256 * s.statusOp.toNat := by
  simp only [State.statusWord, toNat_append, BitVec.toNat_ofNat]
  omega

/-- Settles O6: by the fields of `finish` and of the status word. -/
theorem finishReportsStatus : Obligations.FinishReportsStatus := by
  intro s w c
  refine ⟨rfl, ?_⟩
  rw [State.toNat_statusWord, State.finish_statusCode, State.finish_statusOp]
  cases c <;> rfl

/-! ### The register views -/

section
variable (x : PwmModule)

theorem PwmModule.toNat_chpctl :
    x.chpctl.toNat = x.chpEn.toNat + 2 * x.oshtwth.toNat + 2 ^ 5 * x.chpFreq.toNat + 2 ^ 8 * x.chpDuty.toNat := by
  simp only [PwmModule.chpctl, toNat_append, toNat_ofBool]
  omega

theorem PwmModule.toNat_ctrMode :
    x.ctrMode.toNat = if x.st = .running then x.mode.bits.toNat else 3 := by
  unfold PwmModule.ctrMode
  split_ifs <;> rfl

theorem PwmModule.toNat_tbctl :
    x.tbctl.toNat = (if x.st = .running then x.mode.bits.toNat else 3) + 2 ^ 2 * x.phsEn.toNat +
      2 ^ 4 * x.syncEvent.code.toNat + 2 ^ 7 * x.tbFine.toNat + 2 ^ 10 * x.tbCoarse.toNat +
      2 ^ 13 * x.phsDir.toNat := by
  rw [← PwmModule.toNat_ctrMode]
  simp only [PwmModule.tbctl, toNat_append, toNat_ofBool, BitVec.toNat_ofNat]
  omega

theorem PwmModule.toNat_etsel :
    x.etsel.toNat = 2 ^ 8 * x.socSel.c0.toNat + 2 ^ 11 * x.socEn.c0.toNat + 2 ^ 12 * x.socSel.c1.toNat +
      2 ^ 15 * x.socEn.c1.toNat := by
  simp only [PwmModule.etsel, toNat_append, toNat_ofBool, BitVec.toNat_ofNat]
  omega

theorem PwmModule.toNat_hrcnfg : x.hrcnfg.toNat = x.hrEn.toNat + 2 ^ 8 * x.hrScale.toNat := by
  simp only [PwmModule.hrcnfg, toNat_append, toNat_ofBool, BitVec.toNat_ofNat]
  omega

end

/-- Settles O34: the code tables compute, and each view is the concatenation its layout gives. -/
theorem registerViewsPlaceTheFields : Obligations.RegisterViewsPlaceTheFields := by
  refine ⟨rfl, rfl, rfl, rfl, rfl, rfl, rfl, rfl, fun x => ?_⟩
  refine ⟨?_, ?_, ?_, ?_, rfl, rfl, rfl, rfl, rfl, rfl, rfl, rfl, rfl, rfl, ?_, rfl⟩
  · exact (BitVec.toNat_setWidth_of_le (by decide)).trans x.toNat_chpctl
  · exact (BitVec.toNat_setWidth_of_le (by decide)).trans x.toNat_tbctl
  · exact (BitVec.toNat_setWidth_of_le (by decide)).trans x.toNat_etsel
  · exact (BitVec.toNat_setWidth_of_le (by decide)).trans x.toNat_hrcnfg
  · exact BitVec.toNat_setWidth_of_le (by decide)

end Sys2Proof.Machine
end

section
/-! PROOF. The host's accesses to the register window (20_memory.md R70 to R73, R77, R78). -/

namespace Sys2Proof.Machine

open Sys2Proof.Statements

variable {s : State}

/-! ### The words of the window (20_memory.md R70) -/

/-- Past its first nine words the window is reserved. -/
theorem windowRegAt_reserved (k : Nat) : windowRegAt (4 * (k + 9)) = .reserved := by
  rw [windowRegAt, Nat.mul_div_cancel_left _ (by decide)]
  rfl

/-- `CMD` is the first word alone. -/
theorem windowRegAt_ne_cmd {k : Nat} (h : 1 ≤ k) : windowRegAt (4 * k) ≠ .cmd := by
  match k with
  | 1 | 2 | 3 | 4 | 5 | 6 | 7 | 8 => decide
  | k + 9 => simp [windowRegAt_reserved]

/-- The word read is the one the table of the window gives (20_memory.md R72). -/
theorem State.windowRead_windowRegAt (s : State) (k : Nat) :
    s.windowRead (windowRegAt (4 * k)) = windowValue s k := by
  match k with
  | 0 | 1 | 2 | 3 | 4 | 5 | 6 | 7 | 8 => rfl
  | k + 9 => simp [windowRegAt_reserved, windowValue, State.windowRead]

/-- Words 1 to 4 store what is written, and the others ignore it (20_memory.md R73, R78). -/
theorem State.windowWrite_windowRegAt (s : State) (k : Nat) (v : Word) :
    s.windowWrite (windowRegAt (4 * k)) v =
      { s with
        arg0 := if k = 1 then v else s.arg0
        arg1 := if k = 2 then v else s.arg1
        arg2 := if k = 3 then v else s.arg2
        arg3 := if k = 4 then v else s.arg3 } := by
  match k with
  | 0 | 1 | 2 | 3 | 4 | 5 | 6 | 7 | 8 => rfl
  | k + 9 => simp [windowRegAt_reserved, State.windowWrite]

/-! ### One access (20_memory.md R71 to R73) -/

section
variable {addr bytes : Nat} {v : Word}

theorem hostRead_of_windowReg {r : WindowReg} (h : windowReg s.params addr bytes = some r) :
    hostRead addr bytes s = .next { s with busRead := some (s.windowRead r) } := by
  simp [hostRead, h]

theorem hostRead_of_not_admitted (h : windowReg s.params addr bytes = none) :
    hostRead addr bytes s = .fault .accessNotAdmitted := by
  simp [hostRead, h]

theorem hostWrite_of_not_admitted (h : windowReg s.params addr bytes = none) :
    hostWrite addr bytes v s = .fault .accessNotAdmitted := by
  simp [hostWrite, h]

theorem hostWrite_of_cmd (h : windowReg s.params addr bytes = some .cmd) :
    hostWrite addr bytes v s = runCommand v s := by
  simp [hostWrite, h]

theorem hostWrite_of_ne_cmd {r : WindowReg} (h : windowReg s.params addr bytes = some r) (hr : r ≠ .cmd) :
    hostWrite addr bytes v s = .next (s.windowWrite r v) := by
  simp only [hostWrite, h]

end

/-! ### A command word (20_memory.md R77; 30_encoding.md R95) -/

theorem runCommand_of_decode_ok {w : Word} {i : Instr} (h : decode w = .ok i) :
    runCommand w s = exec i s := by
  simp [runCommand, h]

theorem runCommand_of_decode_error {w : Word} {e : DecodeError} (h : decode w = .error e) :
    runCommand w s = .next (s.finish w .illegal) := by
  simp [runCommand, h]

theorem decodeTableWord_eq_some_iff {nbits w : Nat} {i : Instr} :
    decodeTableWord nbits w = some i ↔ decode (tableWord nbits w) = .ok i := by
  rw [decodeTableWord, tableWord]
  split <;> simp [*]

theorem decodeTableWord_eq_none_iff {nbits w : Nat} :
    decodeTableWord nbits w = none ↔ ∃ e, decode (tableWord nbits w) = .error e := by
  rw [decodeTableWord, tableWord]
  split <;> simp [*]

/-! ### The step of an access -/

theorem step_of_hostWrite {addr bytes : Nat} {v : Word} {rest : List Input}
    (h : NextInput s (.hostWrite addr bytes v) rest) :
    step s = hostWrite addr bytes v { s with inputs := rest } := step_cons h

theorem step_of_hostRead {addr bytes : Nat} {rest : List Input}
    (h : NextInput s (.hostRead addr bytes) rest) :
    step s = hostRead addr bytes { s with inputs := rest } := step_cons h

/-- A `CMD` write runs its word on the state without that input. -/
theorem step_of_cmdWrite {w : Word} {rest : List Input} (h : NextInput s (s.cmdWrite w) rest) :
    step s = runCommand w { s with inputs := rest } := by
  rw [step_of_hostWrite h]
  exact hostWrite_of_cmd (windowReg_base s.params)

/-- The step from `withFetchWord` takes the word off again, so the command runs on the state itself. -/
theorem step_withFetchWord (s : State) (nbits w : Nat) :
    step (s.withFetchWord nbits w) = runCommand (tableWord nbits w) s :=
  step_of_cmdWrite (s := s.withFetchWord nbits w) rfl

/-! ### The statements of 20_memory.md -/

/-- Settles O5: by the `CMD` write, and what its word decodes to. -/
theorem stepRunsDecodedCommand : Obligations.StepRunsDecodedCommand := by
  refine ⟨fun s w rest h => ?_, fun s nbits w => ?_⟩
  · rw [step_of_cmdWrite h]
    exact ⟨rfl, fun _ => runCommand_of_decode_ok, fun _ => runCommand_of_decode_error⟩
  · rw [step_withFetchWord]
    refine ⟨fun i h => runCommand_of_decode_ok (decodeTableWord_eq_some_iff.1 h), fun h => ?_⟩
    obtain ⟨e, he⟩ := decodeTableWord_eq_none_iff.1 h
    exact runCommand_of_decode_error he

/-- Settles O7: by the word the address reaches, and what a read and a write of that word do. -/
theorem windowAccessResults : Obligations.WindowAccessResults := by
  intro s k v rest hk
  have reaches : windowReg s.params (s.params.blockBase + 4 * k) 4 = some (windowRegAt (4 * k)) :=
    windowReg_eq_some s.params hk
  refine ⟨fun h => ?_, fun h1 h => ?_⟩
  · rw [step_of_hostRead h, ← State.windowRead_windowRegAt]
    exact hostRead_of_windowReg reaches
  · have stores := State.windowWrite_windowRegAt { s with inputs := rest } k v
    rw [step_of_hostWrite h, ← stores]
    exact hostWrite_of_ne_cmd reaches (windowRegAt_ne_cmd h1)

/-- Settles O8: such an access reaches no word of the window. -/
theorem unadmittedAccessIsStuck : Obligations.UnadmittedAccessIsStuck := by
  intro s addr bytes v rest h
  have none_reached : windowReg s.params addr bytes = none := windowReg_eq_none s.params h
  refine ⟨fun hw => ?_, fun hr => ?_⟩
  · rw [step_of_hostWrite hw]
    exact hostWrite_of_not_admitted none_reached
  · rw [step_of_hostRead hr]
    exact hostRead_of_not_admitted none_reached

end Sys2Proof.Machine
end

section
/-! PROOF. The words that are no command (30_encoding.md R94, R95, R98, R99). -/

namespace Sys2Proof.Machine

open Sys2Proof.Statements

variable {w : Word} {r : CommandRow}

/-! ### The rows of the opcode map (30_encoding.md R96) -/

/-- The rows stand under the opcodes of the spec, in their order. -/
theorem opcodes_eq_map : opcodes = commandRows.map CommandRow.opcode := rfl

theorem opcodes_nodup : opcodes.Nodup := by decide

/-- No two rows have one opcode. -/
theorem commandRow_eq_of_opcode_eq {r' : CommandRow} (hr : r ∈ commandRows) (hr' : r' ∈ commandRows)
    (same : r.opcode = r'.opcode) : r = r' :=
  List.inj_on_of_nodup_map (opcodes_eq_map ▸ opcodes_nodup) hr hr' same

/-- The decoder finds a row by its opcode. -/
theorem find?_opcode_of_mem (hr : r ∈ commandRows) (ho : r.opcode = opField w) :
    commandRows.find? (fun x => x.opcode == opField w) = some r := by
  cases h : commandRows.find? (fun x => x.opcode == opField w) with
  | none => exact absurd (beq_iff_eq.2 ho) (List.find?_eq_none.1 h r hr)
  | some r' =>
    have same : r'.opcode = opField w := by simpa using List.find?_some h
    rw [commandRow_eq_of_opcode_eq (List.mem_of_find?_eq_some h) hr (same.trans ho.symm)]

/-! ### What the decoder answers, in the order of 30_encoding.md R95 -/

/-- A reserved opcode is in no row (30_encoding.md R98). -/
theorem decode_of_reserved (h : opField w ∉ opcodes) : decode w = .error .reservedOpcode := by
  have none_found : commandRows.find? (fun x => x.opcode == opField w) = none :=
    List.find?_eq_none.2 fun x hx same =>
      h (opcodes_eq_map ▸ List.mem_map.2 ⟨x, hx, beq_iff_eq.1 same⟩)
  rw [decode, none_found]

/-- A word under the opcode of a row is judged by that row: first its fixed bits, then its field values. -/
theorem decode_of_row (hr : r ∈ commandRows) (ho : r.opcode = opField w) :
    decode w =
      if w &&& r.mask = commandWord r.opcode 0 0 0 then
        if (r.make w).wellFormed then .ok (r.make w) else .error .fieldValue
      else .error .mustBeZero := by
  rw [decode, find?_opcode_of_mem hr ho]
  rfl

/-- A set must-be-zero bit is not ignored (30_encoding.md R99). -/
theorem decode_of_fixed_bits_ne (hr : r ∈ commandRows) (ho : r.opcode = opField w)
    (hbits : w &&& r.mask ≠ commandWord r.opcode 0 0 0) : decode w = .error .mustBeZero := by
  rw [decode_of_row hr ho, if_neg hbits]

/-- A word with the fixed bits of its row is refused for a field value (30_encoding.md R94). -/
theorem decode_of_not_wellFormed (hr : r ∈ commandRows) (ho : r.opcode = opField w)
    (hbits : w &&& r.mask = commandWord r.opcode 0 0 0) (bad : ¬(r.make w).WellFormed) :
    decode w = .error .fieldValue := by
  rw [decode_of_row hr ho, if_pos hbits, if_neg bad]

/-! ### The two fields with a value the encoding leaves out (30_encoding.md R94) -/

/-- The rows with the fields `M` and `I[1:0]` fix the opcode and every other bit. -/
theorem commandWord_and_moduleCodeMask (op : BitVec 8) (m : ModuleIndex) {v : BitVec 16}
    (hv : v &&& 0xFFFC#16 = 0#16) : commandWord op m 0 v &&& 0xFF0FFFFC#32 = commandWord op 0 0 0 := by
  have mask : 0xFF0FFFFC#32 = commandWord (BitVec.allOnes 8) 0#4 0xF#4 0xFFFC#16 := rfl
  rw [mask, Laws.EncodesInItsRow.commandWord_and, BitVec.and_allOnes, BitVec.and_zero, hv]
  rfl

/-- Such a row refuses a code that makes its command ill-formed. -/
theorem decode_of_moduleCodeRow {op : BitVec 8} {make : Word → Instr} {m : ModuleIndex} {v : BitVec 16}
    (row : ⟨op, 0xFF0FFFFC#32, make⟩ ∈ commandRows) (hv : v &&& 0xFFFC#16 = 0#16)
    (bad : ¬(make (commandWord op m 0 v)).WellFormed) :
    decode (commandWord op m 0 v) = .error .fieldValue :=
  decode_of_not_wellFormed row (opField_commandWord ..).symm (commandWord_and_moduleCodeMask op m hv) bad

/-- Counting mode 3 has no command. -/
theorem decode_pwmConstruct_mode3 (m : ModuleIndex) :
    decode (commandWord 0x10 m 0 3) = .error .fieldValue := by
  have row : ⟨0x10#8, 0xFF0FFFFC#32, fun w => .pwmConstruct (mField w) ((iField w).setWidth 2)⟩ ∈ commandRows := by
    simp [commandRows, timeBaseRows]
  exact decode_of_moduleCodeRow row rfl (by simp [Instr.wellFormed])

/-- Trigger source 3 has no command. -/
theorem decode_adcSetTrigger_source3 (m : ModuleIndex) :
    decode (commandWord 0x64 m 0 3) = .error .fieldValue := by
  have row : ⟨0x64#8, 0xFF0FFFFC#32, fun w => .adcSetTrigger (mField w) ((iField w).setWidth 2)⟩ ∈ commandRows := by
    simp [commandRows, adcRows]
  exact decode_of_moduleCodeRow row rfl (by simp [Instr.wellFormed])

/-! ### The statement of 30_encoding.md -/

/-- Settles O4: by the reason for which the decoder refuses each of these words. -/
theorem illegalWordsChangeNothing : Obligations.IllegalWordsChangeNothing :=
  ⟨fun _ _ reserved => runCommand_of_decode_error (decode_of_reserved reserved),
    fun _ _ _ hr ho hbits => runCommand_of_decode_error (decode_of_fixed_bits_ne hr ho hbits),
    fun m _ =>
      ⟨runCommand_of_decode_error (decode_pwmConstruct_mode3 m),
        runCommand_of_decode_error (decode_adcSetTrigger_source3 m)⟩⟩

end Sys2Proof.Machine
end

section
/-! PROOF. The divider search and the driver commands (40_clock_divider.md). -/

namespace Sys2Proof.Machine

/-! ### The divider (40_clock_divider.md R121, R124) -/

section
variable {src tgt : Nat} {coarse fine : List Nat} {r : DivResult}

/-- A found rate is that of a pair of the tables, not above the target; no such pair is faster, and none before it
has its rate. -/
theorem divSearch_spec (h : divSearch src tgt coarse fine = some r) :
    r ∈ divCandidates src coarse fine ∧ r.achieved ≤ tgt ∧
    (∀ x ∈ divCandidates src coarse fine, x.achieved ≤ tgt → x.achieved ≤ r.achieved) ∧
    ∀ x ∈ divCandidates src coarse fine, x.Before r → x.achieved ≠ r.achieved := by
  unfold divSearch at h
  split_ifs at h
  exact (foldl_divPick tgt _ (pairwise_divCandidates src coarse fine)).2 r h

/-- A pair of divisors of the tables is a candidate, under some indices. -/
theorem exists_mem_divCandidates {c f : Nat} (hc : c ∈ coarse) (hf : f ∈ fine) :
    ∃ x ∈ divCandidates src coarse fine, x.achieved = src / (c * f) := by
  obtain ⟨i, hi⟩ := List.mem_iff_getElem?.mp hc
  obtain ⟨j, hj⟩ := List.mem_iff_getElem?.mp hf
  exact ⟨⟨src / (c * f), i, j⟩, mem_divCandidates.mpr ⟨c, f, hi, hj, rfl⟩, rfl⟩

/-- The search fails for a rate it refuses, or when every pair of divisors is too fast. -/
theorem divSearch_eq_none_iff :
    divSearch src tgt coarse fine = none ↔
      (src = 0 ∨ tgt = 0 ∨ src < tgt) ∨ ∀ c ∈ coarse, ∀ f ∈ fine, tgt < src / (c * f) := by
  unfold divSearch
  split_ifs with refused
  · simp [refused]
  · rw [(foldl_divPick tgt _ (pairwise_divCandidates src coarse fine)).1, or_iff_right refused]
    constructor
    · intro fast c hc f hf
      obtain ⟨x, hx, rate⟩ := exists_mem_divCandidates hc hf
      exact rate ▸ fast x hx
    · intro fast x hx
      obtain ⟨c, f, hc, hf, rate⟩ := mem_divCandidates.mp hx
      exact rate ▸ fast c (List.mem_of_getElem? hc) f (List.mem_of_getElem? hf)

/-- The last divisor of a table is its largest (00_scope.md R6). -/
theorem le_getLast_of_table {bits d last : Nat} {t : List Nat} (table : Params.Table bits t)
    (hlast : t.getLast? = some last) (hd : d ∈ t) : d ≤ last := by
  obtain ⟨-, -, ascending, -⟩ := table
  obtain ⟨_, rfl⟩ := List.mem_getLast?_eq_getLast hlast
  exact (ascending.imp Nat.le_of_lt).rel_getLast hd

/-- The largest divisors of two tables give the slowest rate. -/
theorem div_getLast_le {bits bits' c f cLast fLast : Nat} (tc : Params.Table bits coarse)
    (tf : Params.Table bits' fine) (hc : coarse.getLast? = some cLast) (hf : fine.getLast? = some fLast)
    (hcm : c ∈ coarse) (hfm : f ∈ fine) : src / (cLast * fLast) ≤ src / (c * f) := by
  have larger : c * f ≤ cLast * fLast :=
    Nat.mul_le_mul (le_getLast_of_table tc hc hcm) (le_getLast_of_table tf hf hfm)
  obtain ⟨-, -, -, coarse_pos⟩ := tc
  obtain ⟨-, -, -, fine_pos⟩ := tf
  exact Nat.div_le_div_left larger (Nat.mul_pos (coarse_pos c hcm) (fine_pos f hfm))

end

/-- Settles O22: by what the search finds, read over the pairs of the tables instead of the candidates. -/
theorem dividerFindsTheBestRate : Obligations.DividerFindsTheBestRate := by
  intro src tgt coarse fine r h
  obtain ⟨reached, not_above, best, first⟩ := divSearch_spec h
  obtain ⟨-, not_above_src, -, -⟩ := divSearch_le h
  refine ⟨not_above, not_above_src, mem_divCandidates.mp reached, fun c hc f hf => ?_,
    fun ci fi c f hc hf before rate => ?_⟩
  · obtain ⟨x, hx, rate⟩ := exists_mem_divCandidates (src := src) hc hf
    exact rate ▸ best x hx
  · exact first ⟨src / (c * f), ci, fi⟩ (mem_divCandidates.mpr ⟨c, f, hc, hf, rfl⟩) before rate

/-- Settles O23: every pair is too fast exactly when the pair of the largest divisors is. -/
theorem dividerFailsExactly : Obligations.DividerFailsExactly := by
  intro src tgt cLast fLast bits bits' coarse fine tc tf hc hf
  have all_fast : (∀ c ∈ coarse, ∀ f ∈ fine, tgt < src / (c * f)) ↔ tgt < src / (cLast * fLast) :=
    ⟨fun fast => fast cLast (List.mem_of_getLast? hc) fLast (List.mem_of_getLast? hf),
      fun last_fast _ hcm _ hfm => last_fast.trans_le (div_getLast_le tc tf hc hf hcm hfm)⟩
  rw [divSearch_eq_none_iff, all_fast, or_assoc, or_assoc]

/-! ### The driver commands (30_encoding.md R105; 40_clock_divider.md R122, R123) -/

section
variable {s : State} {table : DivTable}

theorem exec_nop (s : State) : exec .nop s = .next (s.finish (encode .nop) .ok) := rfl

/-- The first clock that is not 0 Hz is recorded. -/
theorem exec_drvInit_of_first (fresh : s.drvReady = false) (hz : s.arg0 ≠ 0#32) :
    exec .drvInit s =
      .next (State.finish { s with sysclk := s.arg0, drvReady := true } (encode .drvInit) .ok) := by
  change execDrvInit s = _
  simp [execDrvInit, fresh, hz]

/-- A second clock and a clock of 0 Hz are rejected. -/
theorem exec_drvInit_of_rejected (h : s.drvReady = true ∨ s.arg0 = 0#32) :
    exec .drvInit s = .next (s.finish (encode .drvInit) .rejected) := by
  change execDrvInit s = _
  unfold execDrvInit
  split_ifs with ready zero
  · rfl
  · rfl
  · exact absurd h (not_or_intro ready zero)

theorem exec_clkdivCalc_of_some {r : DivResult}
    (h : divideBy s.params table s.arg0.toNat s.arg1.toNat = some r) :
    exec (.clkdivCalc table) s = .next ((s.setDivResult r).finish (encode (.clkdivCalc table)) .ok) := by
  change execClkdivCalc table s = _
  simp [execClkdivCalc, h]

theorem exec_clkdivCalc_of_none (h : divideBy s.params table s.arg0.toNat s.arg1.toNat = none) :
    exec (.clkdivCalc table) s = .next (s.finish (encode (.clkdivCalc table)) .rejected) := by
  change execClkdivCalc table s = _
  simp [execClkdivCalc, h]

end

/-- Settles O29: one equation for each outcome of the three commands; the table bit selects the tables of
`divideBy`. -/
theorem driverCommandResults : Obligations.DriverCommandResults := fun s =>
  ⟨exec_nop s, exec_drvInit_of_first, exec_drvInit_of_rejected,
    fun _ => exec_clkdivCalc_of_some (table := .pwm), exec_clkdivCalc_of_none (table := .pwm),
    fun _ => exec_clkdivCalc_of_some (table := .adc), exec_clkdivCalc_of_none (table := .adc)⟩

end Sys2Proof.Machine
end

section
/-! PROOF. The checks at the top of a command (41_pwm_timebase.md R142, 46_adc_sequencer.md R255). -/

namespace Sys2Proof.Machine

open Sys2Proof.Statements

section
variable {i : Instr} {m : ModuleIndex} {s : State}

/-- Every PWM command but PWM_CONSTRUCT and PWM_GET_STATE is its module check with an answer behind it. -/
theorem exec_eq_onModule (h : checkedModule i = some m) (s : State) : ∃ k, exec i s = onModule i m s k := by
  cases i <;> cases h <;> dsimp only [exec] <;> exact ⟨_, rfl⟩

theorem State.usable_eq_false_iff :
    s.usable m = false ↔ ¬(m.toNat < s.params.pwmModules ∧ (s.pwmAt m).st ≠ .uninit) := by
  rw [← State.usable_iff, Bool.not_eq_true]

/-- Behind the check, a command on a module that is not usable has no effect but its status. -/
theorem ends_of_not_usable (h : checkedModule i = some m) (hu : s.usable m = false) : Ends i .unusable s := by
  obtain ⟨k, hk⟩ := exec_eq_onModule h s
  rw [Ends, hk]
  exact onModule_of_not_usable hu

theorem TrigSrc.ofBits_eq_none_iff {src : BitVec 2} : TrigSrc.ofBits src = none ↔ src = 3#2 := by
  revert src; decide

/-- ADC_SET_TRIGGER with a source is its ADC check, whichever the source. -/
theorem execAdcSetTrigger_eq_onAdc {src : BitVec 2} (hsrc : src ≠ 3#2) (m : ModuleIndex) (s : State) :
    ∃ k, execAdcSetTrigger m src s = onAdc (.adcSetTrigger m src) s k := by
  unfold execAdcSetTrigger
  rcases h : TrigSrc.ofBits src with _ | _ | _ | _
  · exact absurd (TrigSrc.ofBits_eq_none_iff.mp h) hsrc
  · exact ⟨_, rfl⟩
  · exact ⟨_, rfl⟩
  · exact ⟨_, rfl⟩

/-- Every ADC command but ADC_CONSTRUCT is its ADC check with an answer behind it; the ring commands check for a
task behind that. -/
theorem exec_eq_onAdc (h : checksAdc i) (s : State) : ∃ k, exec i s = onAdc i s k := by
  rcases h with h | ⟨mask, rfl⟩ | ⟨m, src, hsrc, rfl⟩
  · fin_cases h <;> dsimp only [exec] <;> exact ⟨_, rfl⟩
  · dsimp only [exec]; exact ⟨_, rfl⟩
  · exact execAdcSetTrigger_eq_onAdc hsrc m s

end

/-- Settles O12: by the check each of these commands begins with. -/
theorem unusableObjectIsReported : Obligations.UnusableObjectIsReported := by
  refine ⟨fun i s m h unusable => ?_, fun i s h unconstructed => ?_⟩
  · exact ends_of_not_usable h (State.usable_eq_false_iff.mpr unusable)
  · obtain ⟨k, hk⟩ := exec_eq_onAdc h s
    rw [Ends, hk]
    exact onAdc_of_not_constructed unconstructed

end Sys2Proof.Machine
end

section
/-! PROOF. A step changes at most one module, the one its command or counter event names, and the active registers
only where they load or the module is reset (41_pwm_timebase.md R140, R141, R148, R152). -/

namespace Sys2Proof.Machine

open Sys2Proof.Statements

/-! ### A change of one module at most -/

/-- From `s` to `t` at most one module changed, one that `acts` admits, and its active registers only if `loads`
admits it. -/
def OneSlot (acts loads : ModuleIndex → Prop) (s t : State) : Prop :=
  t.pwm = s.pwm ∨
    ∃ m y, acts m ∧ t.pwm = (s.setPwm m y).pwm ∧ (activeRegisters y = activeRegisters (s.pwmAt m) ∨ loads m)

/-- Every next state the answer gives differs from `s` in one admitted module at most. -/
def Touches (acts loads : ModuleIndex → Prop) (s : State) (r : Result) : Prop :=
  ∀ t, r = .next t → OneSlot acts loads s t

section
variable {acts loads : ModuleIndex → Prop} {s t : State} {i : Instr} {m : ModuleIndex} {x : PwmModule}

/-- What one module slot became. -/
theorem OneSlot.pwmAt (h : OneSlot acts loads s t) (k : ModuleIndex) :
    t.pwmAt k = s.pwmAt k ∨ acts k ∧ (activeRegisters (t.pwmAt k) = activeRegisters (s.pwmAt k) ∨ loads k) := by
  rcases h with same | ⟨m, y, hacts, hset, hactive⟩
  · exact .inl (State.pwmAt_congr same k)
  · by_cases hk : k = m
    · subst hk
      rw [State.pwmAt_congr hset, State.pwmAt_setPwm_same]
      exact .inr ⟨hacts, hactive⟩
    · rw [State.pwmAt_congr hset]
      exact .inl (State.pwmAt_setPwm_other s hk y)

theorem touches_next (h : OneSlot acts loads s t) : Touches acts loads s (.next t) := by
  rintro _ ⟨⟩; exact h

theorem touches_fault (f : Fault) : Touches acts loads s (.fault f) := by
  rintro _ ⟨⟩

theorem touches_ite {c : Prop} [Decidable c] {a b : Result} (ha : Touches acts loads s a)
    (hb : Touches acts loads s b) : Touches acts loads s (if c then a else b) := by
  split_ifs
  · exact ha
  · exact hb

/-- A command that ends with the modules as they were. -/
theorem touches_kept {c : Code} (h : t.pwm = s.pwm) : Touches acts loads s (endWith i c t) :=
  touches_next (.inl h)

theorem touches_answerNat {v : Option Nat} : Touches acts loads s (answerNat i s v) :=
  touches_kept (quiet_setRes0Nat s v).pwm

/-- A command that ends with one module replaced. -/
theorem touches_replaced {c : Code} (hacts : acts m) (hset : t.pwm = (s.setPwm m x).pwm)
    (hactive : activeRegisters x = activeRegisters (s.pwmAt m) ∨ loads m) : Touches acts loads s (endWith i c t) :=
  touches_next (.inr ⟨m, x, hacts, hset, hactive⟩)

theorem touches_updateModule (hacts : acts m)
    (hactive : activeRegisters x = activeRegisters (s.pwmAt m) ∨ loads m) :
    Touches acts loads s (updateModule i m s x) :=
  touches_replaced hacts rfl hactive

theorem touches_onModule {k : PwmModule → Result} (h : Touches acts loads s (k (s.pwmAt m))) :
    Touches acts loads s (onModule i m s k) :=
  touches_ite h (touches_kept rfl)

theorem touches_onAdc {k : Result} (h : Touches acts loads s k) : Touches acts loads s (onAdc i s k) :=
  touches_ite h (touches_kept rfl)

theorem touches_onTask {k : Result} (h : Touches acts loads s k) : Touches acts loads s (onTask i s k) :=
  touches_onAdc (touches_ite h (touches_kept rfl))

end

/-! ### Commands -/

/-- The command names the module, as `actsOn` says of the write that issues it. -/
def commandActsOn (i : Instr) (m : ModuleIndex) : Prop :=
  checkedModule i = some m ∨ ∃ mode, i = .pwmConstruct m mode

/-- The command may load the active registers of the module, as `loadsActive` says of the write that issues it. -/
def commandLoads (i : Instr) (m : ModuleIndex) : Prop :=
  (∃ n, i = .pwmStart m n) ∨ (∃ mode, i = .pwmConstruct m mode) ∨ i = .pwmRelease m

section
variable (s : State) (m : ModuleIndex)

/-- The answer of command `i` changes one module it names at most. -/
abbrev TouchesNamed (i : Instr) (r : Result) : Prop := Touches (commandActsOn i) (commandLoads i) s r

theorem touchesNamed_pwmConstruct (mode : BitVec 2) :
    TouchesNamed s (.pwmConstruct m mode) (execPwmConstruct m mode s) := by
  unfold execPwmConstruct
  split
  · exact touches_kept rfl
  · refine touches_ite ?_ (touches_kept rfl)
    split
    · exact touches_kept rfl
    · exact touches_replaced (.inr ⟨mode, rfl⟩) rfl (.inr (.inr (.inl ⟨mode, rfl⟩)))

theorem touchesNamed_clkdivCalc (table : DivTable) :
    TouchesNamed s (.clkdivCalc table) (execClkdivCalc table s) := by
  unfold execClkdivCalc
  split
  · exact touches_kept rfl
  · exact touches_kept rfl

theorem touchesNamed_setToggle (i : Instr) (t : Toggle) (b : Bool) {u : State}
    (hacts : commandActsOn i m) (hset : u.pwm = (s.setPwm m ((s.pwmAt m).setToggle t b)).pwm) :
    TouchesNamed s i (endWith i .ok u) :=
  touches_replaced hacts hset (.inl (by rw [PwmModule.setToggle_eq]))

theorem touchesNamed_chpSetFreq : TouchesNamed s (.chpSetFreq m) (execChpSetFreq m s) :=
  touches_onModule (by
    split
    · exact touches_kept rfl
    · exact touches_updateModule (.inl rfl) (.inl rfl))

theorem touchesNamed_etSetEvent (x : Soc) (e : BitVec 3) :
    TouchesNamed s (.etSetEvent m x e) (execEtSetEvent m x e s) :=
  touches_onModule (by
    split
    · exact touches_kept rfl
    · exact touches_updateModule (.inl rfl) (.inl rfl))

theorem State.startConv_pwm (src : ConvSource) : (s.startConv src).pwm = s.pwm := by
  rw [State.startConv_eq]

theorem touchesNamed_adcConstruct : TouchesNamed s .adcConstruct (execAdcConstruct s) :=
  touches_ite
    (by
      split
      · exact touches_kept rfl
      · exact touches_kept rfl)
    (touches_kept rfl)

theorem touchesNamed_adcSetTrigger (src : BitVec 2) :
    TouchesNamed s (.adcSetTrigger m src) (execAdcSetTrigger m src s) := by
  unfold execAdcSetTrigger
  split
  · exact touches_kept rfl
  · exact touches_onAdc (touches_kept rfl)
  · exact touches_onAdc (touches_ite (touches_kept rfl) (touches_kept rfl))

/-- Every command changes one module it names at most: by the command's shape, in groups of one shape. -/
theorem touchesNamed_exec (i : Instr) : TouchesNamed s i (exec i s) := by
  unfold exec
  cases i with
  | nop => exact touches_kept rfl
  | drvInit => exact touches_ite (touches_kept rfl) (touches_ite (touches_kept rfl) (touches_kept rfl))
  | clkdivCalc table => exact touchesNamed_clkdivCalc s table
  | pwmConstruct m mode => exact touchesNamed_pwmConstruct s m mode
  | pwmRelease m => exact touches_onModule (touches_updateModule (.inl rfl) (.inr (.inr (.inr rfl))))
  | pwmStart m n =>
    exact touches_onModule
      (touches_ite (touches_replaced (.inl rfl) rfl (.inr (.inl ⟨n, rfl⟩))) (touches_kept rfl))
  | pwmSetTask m | pwmStop m | chpSetDuty m =>
    exact touches_onModule (touches_ite (touches_updateModule (.inl rfl) (.inl rfl)) (touches_kept rfl))
  | pwmGetFreq m | pwmGetDuty m =>
    exact touches_onModule (touches_ite (touches_ite (touches_kept rfl) touches_answerNat) (touches_kept rfl))
  | pwmGetBounds m =>
    exact touches_onModule
      (touches_kept ((quiet_setRes0Nat s _).trans (quiet_setRes1Nat _ _)).pwm)
  | pwmGetState m => exact touches_ite (touches_kept rfl) (touches_kept rfl)
  | pwmReadReg m | tglRead m | syncGetEvent m | syncIsSynchronizing m | phsGetDir m | hrIsEnabled m | etGetEvent m =>
    exact touches_onModule (touches_kept rfl)
  | dbSetRise m | dbSetFall m | chpSetPulse m | syncSetEvent m | phsSetDir m | hrDisable m | etResetEvent m =>
    exact touches_onModule (touches_updateModule (.inl rfl) (.inl rfl))
  | dbGetRise m | dbGetFall m =>
    exact touches_onModule (touches_ite (touches_kept rfl) (touches_kept (quiet_setRes0Readback s _ _ _).pwm))
  | tglDisable m t => exact touches_onModule (touchesNamed_setToggle s m _ t false (.inl rfl) rfl)
  | tglEnable m t status =>
    exact touches_onModule
      (touches_ite (touchesNamed_setToggle s m _ t true (.inl rfl) rfl) (touches_kept rfl))
  | chpSetFreq m => exact touchesNamed_chpSetFreq s m
  | chpGetFreq m | chpGetDuty m | chpGetPulse m | phsGet m =>
    exact touches_onModule (touches_ite (touches_kept rfl) touches_answerNat)
  | syncSynchronize m => exact touches_onModule (touches_ite (touches_kept rfl) (touches_kept rfl))
  | phsSet m | hrEnable m =>
    exact touches_onModule (touches_ite (touches_kept rfl) (touches_updateModule (.inl rfl) (.inl rfl)))
  | pwmGetResolution m =>
    exact touches_onModule (touches_ite (touches_kept (quiet_setResolution s _).pwm) (touches_kept rfl))
  | etSetEvent m x e => exact touchesNamed_etSetEvent s m x e
  | adcConstruct => exact touchesNamed_adcConstruct s
  | adcRelease | adcGetClock | adcGetStatus | adcClearStatus => exact touches_onAdc (touches_kept rfl)
  | adcRegisterTask =>
    exact touches_onAdc (touches_ite (touches_kept rfl) (touches_ite (touches_kept rfl) (touches_kept rfl)))
  | adcSetTrigger m src => exact touchesNamed_adcSetTrigger s m src
  | adcTrigger => exact touches_onTask (touches_kept (State.startConv_pwm s _))
  | adcGetFreeIndex | adcGetFullIndex | adcIsFilled => exact touches_onTask (touches_kept rfl)
  | adcSetFullIsFree => exact touches_onTask (touches_ite (touches_kept rfl) (touches_kept rfl))
  | adcReadSample =>
    exact touches_onTask
      (touches_ite (touches_ite (touches_kept (quiet_readSample s _).pwm) (touches_fault _)) (touches_kept rfl))

/-! ### The environment's steps -/

theorem State.socLine_eq (x : Soc) (e : CtrEvent) :
    ∃ a h, s.socLine m x e = { s with adc := a, history := h } := by
  unfold State.socLine
  split_ifs
  · obtain ⟨es, pulse⟩ := s.socPulse_eq m x
    exact ⟨_, _, pulse⟩
  · exact ⟨s.adc, s.history, rfl⟩

/-- A counter event changes its own module, the ADC and the history: the two SOC lines and the sync-out leave the
modules alone (45_event_trigger.md R246). -/
theorem State.counterEvent_eq (e : CtrEvent) :
    ∃ a h, s.counterEvent m e =
      { s.setPwm m (if e = .ctrZero then (s.pwmAt m).shadowLoad else s.pwmAt m) with adc := a, history := h } := by
  unfold State.counterEvent
  obtain ⟨a, h, soca⟩ := State.socLine_eq ((s.record (.ctrEvent m e)).loadAtZero m e) m .soca e
  obtain ⟨a', h', socb⟩ :=
    State.socLine_eq (((s.record (.ctrEvent m e)).loadAtZero m e).socLine m .soca e) m .socb e
  rw [State.syncByEvent_eq, socb, soca, State.loadAtZero_eq]
  exact ⟨_, _, rfl⟩

theorem touches_evCtr (e : CtrEvent) :
    Touches (actsOn · (.evCtr m e)) (loadsActive · (.evCtr m e)) s (evCtr m e s) := by
  refine touches_ite (touches_next ?_) (touches_fault _)
  obtain ⟨a, h, effect⟩ := State.counterEvent_eq s m e
  rw [effect]
  refine .inr ⟨m, _, rfl, rfl, ?_⟩
  split_ifs with zero
  · exact .inr ⟨rfl, zero⟩
  · exact .inl rfl

theorem State.beginBlock_pwm : s.beginBlock.pwm = s.pwm := by
  unfold State.beginBlock
  split_ifs <;> rfl

theorem State.storeSequence_pwm : s.storeSequence.pwm = s.pwm := by
  rw [State.storeSequence, State.sampleWrites_eq]; rfl

theorem State.publishBlock_pwm (b : BitVec 8) : (s.publishBlock b).pwm = s.pwm := by
  unfold State.publishBlock
  split_ifs <;> rfl

section
variable {s} {acts loads : ModuleIndex → Prop}

theorem touches_captureSequence : Touches acts loads s s.captureSequence := by
  have stored (b : BitVec 8) : (s.beginBlock.storeSequence.publishBlock b).resetSequencer.pwm = s.pwm := by
    rw [State.resetSequencer_pwm, State.publishBlock_pwm, State.storeSequence_pwm, State.beginBlock_pwm]
  exact touches_ite (touches_next (.inl rfl)) (touches_ite (touches_next (.inl (stored _))) (touches_fault _))

theorem touches_evCapture : Touches acts loads s (evCapture s) :=
  touches_ite (touches_ite touches_captureSequence (touches_next (.inl rfl))) (touches_fault _)

theorem touches_evConv (v : List Half) : Touches acts loads s (evConv v s) :=
  touches_ite (touches_ite (touches_next (.inl rfl)) (touches_fault _)) (touches_fault _)

theorem touches_hostRead (addr bytes : Nat) : Touches acts loads s (hostRead addr bytes s) := by
  unfold hostRead
  split
  · exact touches_fault _
  · exact touches_next (.inl rfl)

end

/-! ### Every step -/

/-- A write of `CMD` acts on the module its command names. -/
theorem touches_hostWrite (addr bytes : Nat) (w : Word) :
    Touches (actsOn · (.hostWrite addr bytes w)) (loadsActive · (.hostWrite addr bytes w)) s
      (hostWrite addr bytes w s) := by
  unfold hostWrite runCommand
  split
  · exact touches_fault _
  · split
    next i decoded =>
      intro t ht
      refine (touchesNamed_exec s i t ht).imp_right ?_
      rintro ⟨m, x, hacts, hset, hactive⟩
      exact ⟨m, x, ⟨i, decoded, hacts⟩, hset, hactive.imp_right fun hloads => ⟨i, decoded, hloads⟩⟩
    · exact touches_next (.inl rfl)
  · exact touches_next (.inl (quiet_windowWrite s _ w).pwm)

theorem touches_runInput (x : Input) : Touches (actsOn · x) (loadsActive · x) s (runInput x s) := by
  cases x with
  | hostWrite addr bytes w => exact touches_hostWrite s addr bytes w
  | hostRead addr bytes => exact touches_hostRead addr bytes
  | evCtr m e => exact touches_evCtr s m e
  | evSyncIn => exact touches_next (.inl rfl)
  | evConv v => exact touches_evConv v
  | evCapture => exact touches_evCapture

end

section
variable {s t : State}

/-- A step that changes a module takes an input that acts on it. -/
theorem pwmAt_of_step (h : step s = .next t) (k : ModuleIndex) :
    t.pwmAt k = s.pwmAt k ∨
      ∃ x rest, NextInput s x rest ∧ actsOn k x ∧
        (activeRegisters (t.pwmAt k) = activeRegisters (s.pwmAt k) ∨ loadsActive k x) := by
  cases hin : s.inputs with
  | nil =>
    rw [step_nil s hin] at h
    cases h
    exact .inl rfl
  | cons x rest =>
    rw [step_cons hin] at h
    exact ((touches_runInput _ x t h).pwmAt k).imp_right fun changed => ⟨x, rest, hin, changed⟩

end

/-- Settles O19: the input of a step that changes the module acts on it. -/
theorem modulesAreIsolated : Obligations.ModulesAreIsolated := by
  intro s t m h changed
  obtain ⟨x, rest, hin, hacts, -⟩ := (pwmAt_of_step h m).resolve_left changed
  exact ⟨x, rest, hin, hacts⟩

/-- Settles O20: a module whose active registers changed has changed, by an input that may load them. -/
theorem activeRegistersLoadOnlyAtZeroOrStart : Obligations.ActiveRegistersLoadOnlyAtZeroOrStart := by
  intro s t m h changed
  obtain ⟨x, rest, hin, -, hactive⟩ := (pwmAt_of_step h m).resolve_left fun same => changed (by rw [same])
  exact ⟨x, rest, hin, hactive.resolve_left changed⟩

/-- Settles O49: the enabling condition, and the effect of the event as a whole. -/
theorem counterEventLoadsAtZero : Obligations.CounterEventLoadsAtZero := by
  intro s m e rest hin
  rw [step_cons hin]
  refine ⟨fun disabled => if_neg ?_, fun inRange running => ?_⟩
  · rintro ⟨inRange, running⟩
    exact disabled ⟨of_decide_eq_true inRange, running⟩
  · obtain ⟨a, h, effect⟩ := State.counterEvent_eq { s with inputs := rest } m e
    refine ⟨_, if_pos ⟨decide_eq_true inRange, running⟩, ?_⟩
    rw [effect]
    exact ⟨State.pwmAt_setPwm_same s m _, fun k hk => State.pwmAt_setPwm_other s hk _, rfl, rfl, rfl, rfl, rfl⟩

end Sys2Proof.Machine
end

section
/-! PROOF. The formulas of the time base (41_pwm_timebase.md R143, R144, R146, R159) and of the other units that the
rules write out. -/

namespace Sys2Proof.Machine

/-! ### Bounds and periods (41_pwm_timebase.md R143, R144) -/

section
variable {bits t f : Nat} {md : Mode}

/-- A quotient rounded up and its divisor change places against a bound (00_scope.md R9). -/
theorem ceilDiv_le_comm {a b c : Nat} (hb : 0 < b) (hc : 0 < c) : ceilDiv a b ≤ c ↔ ceilDiv a c ≤ b := by
  rw [ceilDiv_le_iff hb, ceilDiv_le_iff hc, Nat.mul_comm]

/-- The period counts `ceil_div(t, f)` ticks, or half of them, less one. -/
theorem one_le_period_iff (hf : 1 ≤ f) : 1 ≤ period md t f ↔ f ≤ maxFrequency t := by
  have ticks : ceilDiv t f ≤ 1 ↔ t ≤ f := by rw [ceilDiv_le_iff hf, Nat.mul_one]
  cases md with
  | up | down => simp only [period, maxFrequency]; omega
  | updown => simp only [period, maxFrequency, floorDiv]; omega

theorem period_le_iff (hf : 1 ≤ f) : period md t f ≤ 2 ^ bits - 1 ↔ minFrequency bits md t ≤ f := by
  have hpow : 0 < 2 ^ bits := Nat.two_pow_pos bits
  cases md with
  | up | down =>
    have ticks := ceilDiv_le_comm (a := t) hpow hf
    simp only [period, minFrequency]; omega
  | updown =>
    have ticks := ceilDiv_le_comm (a := t) (b := 2 ^ (bits + 1) - 1) (by omega) hf
    simp only [period, minFrequency, floorDiv]; omega

end

/-- Settles O24: the lower bound is the greatest period, the upper bound a period of 1. -/
theorem boundsAreTheLegalPeriods : Obligations.BoundsAreTheLegalPeriods := fun _ _ _ _ hf =>
  and_comm.trans (and_congr (one_le_period_iff hf).symm (period_le_iff hf).symm)

/-! ### Compare values and duties (41_pwm_timebase.md R146, R159) -/

section
variable {bits p d : Nat}

/-- The share of the period that is left of a duty. -/
theorem mul_sub_duty (hd : d ≤ 10000) : ((p * (10000 - d) : Nat) : Int) = 10000 * p - d * p := by
  rw [Nat.cast_mul, Nat.cast_sub hd]; ring

theorem compare_up_meets_duty (hd : d ≤ 10000) :
    compare bits .up p d ≤ p ∧ |10000 * ((p : Int) - compare bits .up p d) - d * p| < 10000 := by
  have share := mul_sub_duty (p := p) hd
  have small : p * (10000 - d) ≤ p * 10000 := Nat.mul_le_mul_left p (Nat.sub_le _ _)
  simp only [compare, floorDiv, abs_lt]
  omega

theorem compare_down_meets_duty (unclamped : (p + 1) * d < 2 ^ bits * 10000) :
    |10000 * (compare bits .down p d : Int) - d * (p + 1)| < 10000 := by
  have exact : (((p + 1) * d : Nat) : Int) = d * (p + 1) := by push_cast; ring
  have fits : min ((p + 1) * d / 10000) (2 ^ bits - 1) = (p + 1) * d / 10000 := by omega
  simp only [compare, floorDiv, fits, abs_lt]
  omega

theorem compare_updown_meets_duty (hd : d ≤ 10000) :
    compare bits .updown p d ≤ p ∧ 2 * |10000 * ((p : Int) - compare bits .updown p d) - d * p| ≤ 10000 := by
  have share := mul_sub_duty (p := p) hd
  have small : p * (10000 - d) ≤ p * 10000 := Nat.mul_le_mul_left p (Nat.sub_le _ _)
  have half : |10000 * ((p : Int) - compare bits .updown p d) - d * p| ≤ 5000 := by
    simp only [compare, roundDiv, floorDiv, abs_le]
    omega
  simp only [compare, roundDiv, floorDiv] at half ⊢
  omega

end

/-- Settles O25: each mode rounds its share of the period, down or to the nearest tick. -/
theorem compareMeetsTheDuty : Obligations.CompareMeetsTheDuty := fun _ _ _ _ _ hd =>
  ⟨compare_up_meets_duty hd, ⟨Nat.min_le_right _ _, compare_down_meets_duty⟩, compare_updown_meets_duty hd⟩

/-! ### The formulas as the rules write them -/

/-- Settles O21: each formula unfolds to its rule; the steps of DOWN split at the clamp. -/
theorem formulasAreTheRules : Obligations.FormulasAreTheRules := by
  refine ⟨fun t f => ⟨rfl, rfl, rfl⟩, fun t => ⟨rfl, rfl, rfl, rfl⟩, fun p d => ⟨rfl, rfl, rfl⟩,
    fun p d s => ⟨rfl, fun unclamped => if_pos unclamped, fun clamped => if_neg clamped.not_gt, rfl⟩,
    fun ns clk bits => rfl, fun t clk hclk => if_neg hclk.ne', fun clk pre k => rfl, fun clk pre ns => ?_⟩
  rw [chopperPulseCode, clamp, Nat.max_zero]
  rfl

end Sys2Proof.Machine
end

section
/-! PROOF. The results of the time base commands (41_pwm_timebase.md R140 to R150, R155 to R160): one equation for
each outcome of a command; an unusable module is settled for all of them by `ends_of_not_usable`. -/

namespace Sys2Proof.Machine

open Sys2Proof.Statements

section
variable {s : State} {m : ModuleIndex}

/-! ### Life cycle (41_pwm_timebase.md R140, R141, R150) -/

section
variable {mode : BitVec 2} {md : Mode}

/-- A free slot takes the mode and the divisors found, and the divider's answer goes to the result registers. -/
theorem exec_pwmConstruct_of_some {r : DivResult} (hmode : Mode.ofBits mode = some md)
    (inRange : m.toNat < s.params.pwmModules) (free : (s.pwmAt m).st = .uninit) (ready : s.drvReady = true)
    (found : pwmDivide s.params s.sysclk.toNat s.arg0.toNat = some r) :
    Completes (.pwmConstruct m mode) s ((s.setPwm m (.construct md r)).setDivResult r) := by
  change execPwmConstruct m mode s = _
  simp [execPwmConstruct, hmode, State.moduleExists, inRange, free, ready, found]

/-- The four cases of R140: no such slot, a slot in use, no clock, no divisors. -/
theorem exec_pwmConstruct_of_unusable (hmode : Mode.ofBits mode = some md)
    (h : s.params.pwmModules ≤ m.toNat ∨ (s.pwmAt m).st ≠ .uninit ∨ s.drvReady = false ∨
      pwmDivide s.params s.sysclk.toNat s.arg0.toNat = none) :
    Ends (.pwmConstruct m mode) .unusable s := by
  change execPwmConstruct m mode s = _
  simp only [execPwmConstruct, hmode]
  split_ifs with passed
  · obtain ⟨inRange, free, ready⟩ := passed
    have notFound : pwmDivide s.params s.sysclk.toNat s.arg0.toNat = none := by
      simpa [free, ready, (of_decide_eq_true inRange).not_ge] using h
    simp [notFound]
  · rfl

end

theorem exec_pwmRelease_of_usable (hu : s.usable m = true) :
    Completes (.pwmRelease m) s (s.setPwm m .reset) := by
  change execPwmRelease m s = _
  simp [execPwmRelease, hu]

theorem exec_pwmStop_of_running (hu : s.usable m = true) (running : (s.pwmAt m).st = .running) :
    Completes (.pwmStop m) s (s.setPwm m { s.pwmAt m with st := .stopped }) := by
  change execPwmStop m s = _
  simp [execPwmStop, hu, running]

theorem exec_pwmStop_of_not_running (hu : s.usable m = true) (still : (s.pwmAt m).st ≠ .running) :
    Completes (.pwmStop m) s s := by
  change execPwmStop m s = _
  simp [execPwmStop, hu, still]

/-! ### Start and set task (41_pwm_timebase.md R145, R147 to R149) -/

section
variable {n : BitVec 4}

theorem exec_pwmSetTask_of_accepted (hu : s.usable m = true) (ok : s.taskAccepted (s.pwmAt m) n = true) :
    Completes (.pwmSetTask m n) s (s.setPwm m (s.withTask (s.pwmAt m) n)) := by
  change execPwmSetTask m n s = _
  simp [execPwmSetTask, hu, ok]

theorem exec_pwmStart_of_accepted (hu : s.usable m = true) (ok : s.taskAccepted (s.pwmAt m) n = true) :
    Completes (.pwmStart m n) s
      ((s.setPwm m { (s.withTask (s.pwmAt m) n).shadowLoad with st := .running }).record (.shadowLoad m)) := by
  change execPwmStart m n s = _
  simp [execPwmStart, hu, ok]

theorem exec_pwmSetTask_of_not_accepted (hu : s.usable m = true) (bad : ¬s.taskAccepted (s.pwmAt m) n = true) :
    Ends (.pwmSetTask m n) .rejected s := by
  change execPwmSetTask m n s = _
  simp [execPwmSetTask, hu, bad]

theorem exec_pwmStart_of_not_accepted (hu : s.usable m = true) (bad : ¬s.taskAccepted (s.pwmAt m) n = true) :
    Ends (.pwmStart m n) .rejected s := by
  change execPwmStart m n s = _
  simp [execPwmStart, hu, bad]

end

/-! ### Task getters (41_pwm_timebase.md R155, R156) -/

/-- A quotient that exists and fits 32 bits is stored. -/
theorem State.setRes0Nat_quotient (s : State) {a b : Nat} (hb : 0 < b) (fits : a / b < 2 ^ 32) :
    s.setRes0Nat (quotient a b) = s.setRes0 (BitVec.ofNat 32 (a / b)) := by
  rw [quotient, if_neg hb.ne']
  exact State.setRes0Nat_of_lt s fits

theorem freqReadback_of_ne_updown {md : Mode} {t p : Nat} (h : md ≠ .updown) :
    freqReadback md t p = quotient t (p + 1) := by
  cases md with
  | up | down => rfl
  | updown => exact absurd rfl h

theorem dutyReadback_of_ne_down {md : Mode} {p k : Nat} (h : md ≠ .down) :
    dutyReadback md p k = quotient ((p - min k p) * 10000) p := by
  cases md with
  | up | updown => rfl
  | down => exact absurd rfl h

theorem exec_pwmGetFreq_of_no_task (hu : s.usable m = true) (noTask : (s.pwmAt m).taskValid = false) (set : Bool) :
    Ends (.pwmGetFreq m set) .rejected s := by
  change execPwmGetFreq m set s = _
  simp [execPwmGetFreq, hu, noTask]

theorem exec_pwmGetFreq_request (hu : s.usable m = true) (task : (s.pwmAt m).taskValid = true) :
    Completes (.pwmGetFreq m true) s (s.setRes0 (s.pwmAt m).taskFreq) := by
  change execPwmGetFreq m true s = _
  simp [execPwmGetFreq, hu, task]

/-- The frequency of a period of `b` ticks. -/
theorem exec_pwmGetFreq_readback (hu : s.usable m = true) (task : (s.pwmAt m).taskValid = true) {b : Nat} (hb : 0 < b)
    (ticks : freqReadback (s.pwmAt m).mode (s.pwmAt m).tbclk.toNat (s.pwmAt m).tbprd.toNat =
      quotient (s.pwmAt m).tbclk.toNat b) :
    Completes (.pwmGetFreq m false) s (s.setRes0 (BitVec.ofNat 32 ((s.pwmAt m).tbclk.toNat / b))) := by
  have fits : (s.pwmAt m).tbclk.toNat / b < 2 ^ 32 := (Nat.div_le_self _ _).trans_lt (s.pwmAt m).tbclk.isLt
  change execPwmGetFreq m false s = _
  simp [execPwmGetFreq, hu, task, ticks, s.setRes0Nat_quotient hb fits]

section
variable {c : BitVec 4}

/-- The channel is one of a bound task (R156). -/
abbrev State.ChannelBound (s : State) (m : ModuleIndex) (c : BitVec 4) : Prop :=
  c.toNat < s.params.pwmChannels ∧ (s.pwmAt m).taskValid = true ∧ c.toNat < (s.pwmAt m).taskN.toNat

theorem exec_pwmGetDuty_of_not_bound (hu : s.usable m = true) (bad : ¬s.ChannelBound m c) (set : Bool) :
    Ends (.pwmGetDuty m c set) .rejected s := by
  change execPwmGetDuty m c set s = _
  rw [execPwmGetDuty, onModule_of_usable hu]
  exact if_neg bad

theorem exec_pwmGetDuty_request (hu : s.usable m = true) (bound : s.ChannelBound m c) :
    Completes (.pwmGetDuty m c true) s (s.setRes0 (((s.pwmAt m).taskDuty.channel c.toNat).setWidth 32)) := by
  change execPwmGetDuty m c true s = _
  simp [execPwmGetDuty, hu, bound]

/-- The duty of `k` ticks in a period of `b`. -/
theorem exec_pwmGetDuty_readback (hu : s.usable m = true) (bound : s.ChannelBound m c) {k b : Nat} (hb : 0 < b)
    (hk : k ≤ b)
    (ticks : dutyReadback (s.pwmAt m).mode (s.pwmAt m).tbprd.toNat ((s.pwmAt m).cmp.channel c.toNat).toNat =
      quotient (k * 10000) b) :
    Completes (.pwmGetDuty m c false) s (s.setRes0 (BitVec.ofNat 32 (k * 10000 / b))) := by
  have centiPercent : k * 10000 / b ≤ 10000 := Nat.div_le_of_le_mul (Nat.mul_le_mul_right _ hk)
  change execPwmGetDuty m c false s = _
  simp [execPwmGetDuty, hu, bound, ticks, s.setRes0Nat_quotient hb (centiPercent.trans_lt (by decide))]

/-- The channel of a command word is 0 or the other one. -/
theorem Pair.channel_toNat {α : Type} (p : Pair α) (c : BitVec 4) :
    p.channel c.toNat = if c = 0 then p.c0 else p.c1 := by
  have zero : c.toNat = 0 ↔ c = 0 := BitVec.toNat_inj (y := 0#4)
  simp only [Pair.channel, zero]

end

/-! ### Bounds, state and registers (41_pwm_timebase.md R157, R158, R160) -/

theorem exec_pwmGetState_of_exists (inRange : m.toNat < s.params.pwmModules) :
    Completes (.pwmGetState m) s ((s.setRes0 ((s.pwmAt m).st.bits.setWidth 32)).setRes1 (s.pwmAt m).tbclk) := by
  change execPwmGetState m s = _
  simp [execPwmGetState, State.moduleExists, inRange]

theorem exec_pwmGetState_of_not_exists (h : s.params.pwmModules ≤ m.toNat) : Ends (.pwmGetState m) .unusable s := by
  change execPwmGetState m s = _
  simp [execPwmGetState, State.moduleExists, h.not_gt]

theorem ceilDiv_le_self (a : Nat) {b : Nat} (hb : 0 < b) : ceilDiv a b ≤ a :=
  (ceilDiv_le_iff hb).mpr (Nat.le_mul_of_pos_left a hb)

/-- The lower bound of a running clock is a word. -/
theorem minFrequency_le {bits t : Nat} (md : Mode) (ht : 1 ≤ t) : minFrequency bits md t ≤ t := by
  cases md with
  | up | down => exact max_le ht (ceilDiv_le_self t (Nat.two_pow_pos bits))
  | updown => exact max_le ht (ceilDiv_le_self t (by have := Nat.two_pow_pos bits; omega))

theorem exec_pwmGetBounds_of_clocked (hu : s.usable m = true) (clocked : 1 ≤ (s.pwmAt m).tbclk.toNat) :
    Completes (.pwmGetBounds m) s
      ((s.setRes0 (BitVec.ofNat 32 (minFrequency s.params.ctrBits (s.pwmAt m).mode (s.pwmAt m).tbclk.toNat))).setRes1
        (BitVec.ofNat 32 ((s.pwmAt m).tbclk.toNat - 1))) := by
  have word := (s.pwmAt m).tbclk.isLt
  have fits := (minFrequency_le (bits := s.params.ctrBits) (s.pwmAt m).mode clocked).trans_lt word
  have nonzero : (s.pwmAt m).tbclk ≠ 0#32 := fun zero => by simp [zero] at clocked
  change execPwmGetBounds m s = _
  rw [execPwmGetBounds, onModule_of_usable hu, if_neg nonzero, State.setRes0Nat_of_lt s fits, maxFrequency,
    State.setRes1Nat_of_lt _ (by omega)]
  rfl

theorem exec_pwmReadReg_of_usable (hu : s.usable m = true) (r : PwmReg) :
    Completes (.pwmReadReg m r) s (s.setRes0 ((s.pwmAt m).reg r)) := by
  change execPwmReadReg m r s = _
  simp [execPwmReadReg, hu]

end

/-! ### The statements -/

/-- Settles O30: one equation for each outcome of the three commands. -/
theorem pwmLifeCycleResults : Obligations.PwmLifeCycleResults := fun _ _ _ _ hmode =>
  ⟨fun _ => exec_pwmConstruct_of_some hmode, exec_pwmConstruct_of_unusable hmode,
    fun hu => ⟨ends_of_not_usable rfl hu, ends_of_not_usable rfl hu⟩,
    fun hu => ⟨exec_pwmRelease_of_usable hu, exec_pwmStop_of_running hu, exec_pwmStop_of_not_running hu⟩⟩

/-- Settles O31: the acceptance is `isTask` of the argument words, the effect `withTask` and the shadow load. -/
theorem taskCommandResults : Obligations.TaskCommandResults := by
  intro s m n
  refine ⟨fun hu => ⟨ends_of_not_usable rfl hu, ends_of_not_usable rfl hu⟩, fun hu => ?_⟩
  have accepted_iff := PwmModule.isTask_iff (p := s.params) (x := s.pwmAt m) (n := n) (f := s.arg0)
    (d0 := duty0 s.arg1) (d1 := duty1 s.arg1)
  exact ⟨fun ok => exec_pwmSetTask_of_accepted hu (accepted_iff.mpr ok),
    fun ok => exec_pwmStart_of_accepted hu (accepted_iff.mpr ok),
    fun bad => ⟨exec_pwmSetTask_of_not_accepted hu fun ok => bad (accepted_iff.mp ok),
      exec_pwmStart_of_not_accepted hu fun ok => bad (accepted_iff.mp ok)⟩⟩

/-- Settles O32: the two getters, request and readback; the readback's period in ticks is the mode's. -/
theorem pwmTaskGetterResults : Obligations.PwmTaskGetterResults := by
  intro s m c
  refine ⟨fun hu set => ⟨ends_of_not_usable rfl hu, ends_of_not_usable rfl hu⟩, fun hu => ?_⟩
  dsimp only
  -- the compare and the duty of the channel, as the model picks them
  rw [← apply_ite BitVec.toNat, ← Pair.channel_toNat, ← Pair.channel_toNat]
  refine ⟨fun noTask set => ⟨?_, ?_⟩, fun outside set => ?_, fun task => ⟨?_, fun hmode => ?_, fun hmode hp => ?_⟩,
    fun task inRange inTask => ⟨?_, fun hmode hp => ?_, fun hmode => ?_⟩⟩
  · exact exec_pwmGetFreq_of_no_task hu noTask set
  · exact exec_pwmGetDuty_of_not_bound hu (fun ⟨_, task, _⟩ => by simp [noTask] at task) set
  · exact exec_pwmGetDuty_of_not_bound hu (fun ⟨inRange, _, inTask⟩ => by omega) set
  · exact exec_pwmGetFreq_request hu task
  · exact exec_pwmGetFreq_readback hu task (Nat.succ_pos _) (freqReadback_of_ne_updown hmode)
  · exact exec_pwmGetFreq_readback hu task (by omega) (by rw [hmode]; rfl)
  · exact exec_pwmGetDuty_request hu ⟨inRange, task, inTask⟩
  · exact exec_pwmGetDuty_readback hu ⟨inRange, task, inTask⟩ hp (Nat.sub_le _ _)
      (dutyReadback_of_ne_down hmode)
  · exact exec_pwmGetDuty_readback hu ⟨inRange, task, inTask⟩ (Nat.succ_pos _) (Nat.min_le_right _ _)
      (by rw [hmode]; rfl)

/-- Settles O33: one equation for each outcome of the three commands. -/
theorem pwmStatusGetterResults : Obligations.PwmStatusGetterResults := fun _ _ =>
  ⟨exec_pwmGetState_of_exists, exec_pwmGetState_of_not_exists,
    fun hu => ⟨ends_of_not_usable rfl hu, fun _ => ends_of_not_usable rfl hu⟩,
    exec_pwmGetBounds_of_clocked, exec_pwmReadReg_of_usable⟩

end Sys2Proof.Machine
end

section
/-! PROOF. The dead-band commands (42_deadband_toggle.md R172 to R176): one equation for each outcome of a command, and
how near to the request a delay reads back. -/

namespace Sys2Proof.Machine

open Sys2Proof.Statements

/-! ### The readback of ticks (42_deadband_toggle.md R171, R176) -/

section
variable {x t clk n r : Nat}

/-- The bound of R176 multiplied out: `r` is within half a tick and half a nanosecond of the request `x`. -/
abbrev NearRequest (x clk r : Nat) : Prop := 2 * clk * ((r : Int) - x).natAbs ≤ 1000000000 + clk

/-- The two sides of the bound. -/
theorem nearRequest_iff :
    NearRequest x clk r ↔
      2 * clk * r ≤ 2 * clk * x + (1000000000 + clk) ∧ 2 * clk * x ≤ 2 * clk * r + (1000000000 + clk) := by
  have dist : (2 * clk : Int) * |(r : Int) - x| = |(2 * clk * r - 2 * clk * x : Int)| := by
    rw [← mul_sub, abs_mul, abs_of_nonneg (by omega : (0 : Int) ≤ 2 * clk)]
  rw [NearRequest]
  zify
  rw [dist, abs_le]
  omega

/-- Rounded to ticks and back, a request moves by half a tick and half a nanosecond at most. -/
theorem nearRequest_roundDiv (hclk : 0 < clk) :
    NearRequest x clk (roundDiv (roundDiv (x * clk) 1000000000 * 1000000000) clk) := by
  have ticks := roundDiv_bounds (x * clk) (b := 1000000000) (by decide)
  have nanos := roundDiv_bounds (roundDiv (x * clk) 1000000000 * 1000000000) hclk
  rw [Nat.mul_add] at nanos
  rw [nearRequest_iff, show 2 * clk * x = 2 * (x * clk) by ring]
  omega

/-- A free value at or above the floor meets the bound as long as it is below a readback that does. -/
theorem nearRequest_of_floor_le (ht : t = roundDiv (x * clk) 1000000000)
    (above : readbackFloor x t clk ≤ r) (below : r ≤ n) (hn : NearRequest x clk n) : NearRequest x clk r := by
  rw [readbackFloor, if_pos ht, Nat.sub_le_iff_le_add] at above
  have slack : 2 * clk * ((1000000000 + clk) / (2 * clk)) ≤ 1000000000 + clk := Nat.mul_div_le _ _
  have lower := Nat.mul_le_mul_left (2 * clk) above
  rw [Nat.mul_add] at lower
  have upper := Nat.mul_le_mul_left (2 * clk) below
  rw [nearRequest_iff] at hn ⊢
  omega

variable (s : State)

/-- Nanoseconds that have a value of 32 bits are stored. -/
theorem State.setRes0Readback_of_lt (hn : ticksToNs t clk = some n) (fits : n < 2 ^ 32) :
    s.setRes0Readback x t clk = s.setRes0 (BitVec.ofNat 32 n) := by
  simp only [State.setRes0Readback, hn, if_pos fits]

/-- Nanoseconds that do not fit 32 bits leave a free value, no less than the floor. -/
theorem State.setRes0Readback_res0_of_ge (hn : ticksToNs t clk = some n) (large : 2 ^ 32 ≤ n) :
    (s.setRes0Readback x t clk).res0 =
      BitVec.ofNat 32 (max (readbackFloor x t clk) (Config.freeWord s.draws).toNat) := by
  simp only [State.setRes0Readback, hn, if_neg large.not_gt]

theorem readbackFloor_le : readbackFloor x t clk ≤ x := by
  unfold readbackFloor
  split_ifs
  · exact Nat.sub_le _ _
  · exact Nat.zero_le _

/-- The readback of the ticks that stand for a request of 32 bits is near it, a free value too. -/
theorem State.setRes0Readback_near (hx : x < 2 ^ 32) (hclk : 0 < clk) (ht : t = roundDiv (x * clk) 1000000000) :
    NearRequest x clk (s.setRes0Readback x t clk).res0.toNat := by
  have nanos : ticksToNs t clk = some (roundDiv (t * 1000000000) clk) := if_neg hclk.ne'
  have exact : NearRequest x clk (roundDiv (t * 1000000000) clk) := ht ▸ nearRequest_roundDiv hclk
  rcases Nat.lt_or_ge (roundDiv (t * 1000000000) clk) (2 ^ 32) with fits | large
  · rwa [s.setRes0Readback_of_lt nanos fits, State.setRes0_res0, BitVec.toNat_ofNat, Nat.mod_eq_of_lt fits]
  · have word : max (readbackFloor x t clk) (Config.freeWord s.draws).toNat < 2 ^ 32 :=
      max_lt (readbackFloor_le.trans_lt hx) (BitVec.isLt _)
    rw [s.setRes0Readback_res0_of_ge nanos large, BitVec.toNat_ofNat, Nat.mod_eq_of_lt word]
    exact nearRequest_of_floor_le ht (le_max_left _ _) (word.le.trans large) exact

/-- The ticks a register of at most 32 bits holds for an unclamped request read back near it. -/
theorem State.setRes0Readback_near_of_unclamped {bits : Nat} {ns : Word} (hbits : bits ≤ 32) (hclk : 0 < clk)
    (unclamped : roundDiv (ns.toNat * clk) 1000000000 ≤ 2 ^ bits - 1) :
    NearRequest ns.toNat clk
      (s.setRes0Readback ns.toNat (BitVec.ofNat 32 (nsToTicks ns.toNat clk bits)).toNat clk).res0.toNat :=
  s.setRes0Readback_near ns.isLt hclk ((toNat_ofNat_nsToTicks hbits _ _).trans (min_eq_left unclamped))

end

/-! ### The commands (42_deadband_toggle.md R172 to R175) -/

section
variable {s : State} {m : ModuleIndex}

/-- DB_SET_RISE's module: the request and its ticks (R172). -/
abbrev State.withRise (s : State) (x : PwmModule) : PwmModule :=
  { x with
    dbRiseNs := s.arg0
    dbred := BitVec.ofNat 32 (nsToTicks s.arg0.toNat x.tbclk.toNat s.params.dbBits) }

/-- DB_SET_FALL's module: the request and its ticks (R173). -/
abbrev State.withFall (s : State) (x : PwmModule) : PwmModule :=
  { x with
    dbFallNs := s.arg0
    dbfed := BitVec.ofNat 32 (nsToTicks s.arg0.toNat x.tbclk.toNat s.params.dbBits) }

theorem exec_dbSetRise_of_usable (hu : s.usable m = true) :
    Completes (.dbSetRise m) s (s.setPwm m (s.withRise (s.pwmAt m))) := by
  change execDbSetRise m s = _
  simp [execDbSetRise, hu]

theorem exec_dbSetFall_of_usable (hu : s.usable m = true) :
    Completes (.dbSetFall m) s (s.setPwm m (s.withFall (s.pwmAt m))) := by
  change execDbSetFall m s = _
  simp [execDbSetFall, hu]

theorem exec_dbGetRise_request (hu : s.usable m = true) :
    Completes (.dbGetRise m true) s (s.setRes0 (s.pwmAt m).dbRiseNs) := by
  change execDbGetRise m true s = _
  simp [execDbGetRise, hu]

theorem exec_dbGetFall_request (hu : s.usable m = true) :
    Completes (.dbGetFall m true) s (s.setRes0 (s.pwmAt m).dbFallNs) := by
  change execDbGetFall m true s = _
  simp [execDbGetFall, hu]

theorem exec_dbGetRise_readback (hu : s.usable m = true) :
    Completes (.dbGetRise m false) s
      (s.setRes0Readback (s.pwmAt m).dbRiseNs.toNat (s.pwmAt m).dbred.toNat (s.pwmAt m).tbclk.toNat) := by
  change execDbGetRise m false s = _
  simp [execDbGetRise, hu]

theorem exec_dbGetFall_readback (hu : s.usable m = true) :
    Completes (.dbGetFall m false) s
      (s.setRes0Readback (s.pwmAt m).dbFallNs.toNat (s.pwmAt m).dbfed.toNat (s.pwmAt m).tbclk.toNat) := by
  change execDbGetFall m false s = _
  simp [execDbGetFall, hu]

/-- The delay of ticks whose nanoseconds fit 32 bits. -/
theorem exec_dbGetRise_of_lt {n : Nat} (hu : s.usable m = true)
    (nanos : ticksToNs (s.pwmAt m).dbred.toNat (s.pwmAt m).tbclk.toNat = some n) (fits : n < 2 ^ 32) :
    Completes (.dbGetRise m false) s (s.setRes0 (BitVec.ofNat 32 n)) :=
  s.setRes0Readback_of_lt nanos fits ▸ exec_dbGetRise_readback hu

theorem exec_dbGetFall_of_lt {n : Nat} (hu : s.usable m = true)
    (nanos : ticksToNs (s.pwmAt m).dbfed.toNat (s.pwmAt m).tbclk.toNat = some n) (fits : n < 2 ^ 32) :
    Completes (.dbGetFall m false) s (s.setRes0 (BitVec.ofNat 32 n)) :=
  s.setRes0Readback_of_lt nanos fits ▸ exec_dbGetFall_readback hu

/-- After a command that writes module `m` and keeps its life-cycle state, the module is usable and holds what was
written. -/
theorem exists_next_of_completes {i : Instr} {t : State} {x : PwmModule} (run : Completes i s t)
    (hu : s.usable m = true) (hparams : t.params = s.params) (slot : t.pwmAt m = x) (kept : x.st = (s.pwmAt m).st) :
    ∃ u, exec i s = .next u ∧ u.usable m = true ∧ u.pwmAt m = x ∧ u.res0 = t.res0 := by
  obtain ⟨inRange, live⟩ := State.usable_iff.mp hu
  have usable : t.usable m = true := State.usable_iff.mpr ⟨hparams ▸ inRange, by rwa [slot, kept]⟩
  exact ⟨_, run, usable, slot, rfl⟩

end

/-! ### The statements -/

/-- Settles O35: a stored readback is the quotient of R171; no ticks have the value 0 at every clock. -/
theorem deadBandResults : Obligations.DeadBandResults := by
  intro s m
  refine ⟨fun hu => ⟨ends_of_not_usable rfl hu, ends_of_not_usable rfl hu,
    fun set => ⟨ends_of_not_usable rfl hu, ends_of_not_usable rfl hu⟩⟩, fun hu => ?_⟩
  have unset {t : Word} (zero : t = 0) : ticksToNs t.toNat (s.pwmAt m).tbclk.toNat = some 0 := by
    rw [zero]; exact ticksToNs_zero _
  exact ⟨exec_dbSetRise_of_usable hu, exec_dbSetFall_of_usable hu, exec_dbGetRise_request hu,
    exec_dbGetFall_request hu,
    fun hclk fits => exec_dbGetRise_of_lt hu (if_neg hclk.ne') fits,
    fun hclk fits => exec_dbGetFall_of_lt hu (if_neg hclk.ne') fits,
    fun zero => exec_dbGetRise_of_lt hu (unset zero) (by decide),
    fun zero => exec_dbGetFall_of_lt hu (unset zero) (by decide)⟩

/-- Settles O27: the getter after the setter finds the request and its ticks, which read back near it. -/
theorem deadBandReadbackBound : Obligations.DeadBandReadbackBound := by
  intro s m hu x clk fits near hbits
  constructor
  · obtain ⟨u, set, hu', slot, -⟩ :=
      exists_next_of_completes (exec_dbSetRise_of_usable hu) hu rfl (s.pwmAt_setPwm_same m _) rfl
    have request := exec_dbGetRise_request hu'
    have readback := exec_dbGetRise_readback hu'
    rw [slot] at request readback
    exact ⟨u, set, ⟨_, request, rfl, rfl⟩, _, readback, rfl,
      fun ⟨hclk, unclamped⟩ => u.setRes0Readback_near_of_unclamped hbits hclk unclamped⟩
  · obtain ⟨u, set, hu', slot, -⟩ :=
      exists_next_of_completes (exec_dbSetFall_of_usable hu) hu rfl (s.pwmAt_setPwm_same m _) rfl
    have request := exec_dbGetFall_request hu'
    have readback := exec_dbGetFall_readback hu'
    rw [slot] at request readback
    exact ⟨u, set, ⟨_, request, rfl, rfl⟩, _, readback, rfl,
      fun ⟨hclk, unclamped⟩ => u.setRes0Readback_near_of_unclamped hbits hclk unclamped⟩

end Sys2Proof.Machine
end

section
/-! PROOF. The Toggles (42_deadband_toggle.md R177 to R182): the one bit a write changes, the results of the commands,
and the restore idiom. -/

namespace Sys2Proof.Machine

open Sys2Proof.Statements

/-! ### Writing one bit (42_deadband_toggle.md R177) -/

theorem Toggle.ofCode_code (t : Toggle) : Toggle.ofCode t.code = t := by cases t <;> rfl

/-- The ids tell the Toggles apart. -/
theorem Toggle.code_toNat_inj {t t' : Toggle} : t.code.toNat = t'.code.toNat ↔ t = t' := by
  rw [BitVec.toNat_inj]
  exact ⟨fun h => by rw [← Toggle.ofCode_code t, h, Toggle.ofCode_code t'], congrArg Toggle.code⟩

/-- A word of six bits is the sum of its bits. -/
theorem toNat_eq_sum_bits (d : BitVec 6) :
    d.toNat = (d.getLsbD 0).toNat + 2 * (d.getLsbD 1).toNat + 4 * (d.getLsbD 2).toNat + 8 * (d.getLsbD 3).toNat +
      16 * (d.getLsbD 4).toNat + 32 * (d.getLsbD 5).toNat := by
  have small := d.isLt
  simp only [BitVec.getLsbD, Nat.toNat_testBit]
  omega

section
variable {m n k : Nat} (p : BitVec m) (b b' : Bool) (q : BitVec n)

/-- One bit between two parts of a word. -/
theorem getLsbD_append_ofBool_append_self : (p ++ BitVec.ofBool b ++ q).getLsbD n = b := by
  simp only [BitVec.getLsbD_append, lt_irrefl, if_false, Nat.sub_self, Nat.one_pos, if_true, BitVec.getLsbD_ofBool,
    decide_true, Bool.true_and]

/-- The other bits do not depend on it. -/
theorem getLsbD_append_ofBool_append_ne (hk : k ≠ n) :
    (p ++ BitVec.ofBool b ++ q).getLsbD k = (p ++ BitVec.ofBool b' ++ q).getLsbD k := by
  simp only [BitVec.getLsbD_append]
  split_ifs with below middle
  · rfl
  · omega
  · rfl

end

section
variable (x : PwmModule) (t t' : Toggle) (b : Bool)

theorem PwmModule.getLsbD_setToggle_dbctl {k : Nat} (hk : k < 6) :
    (x.setToggle t b).dbctl.getLsbD k = if k = t.code.toNat then b else x.dbctl.getLsbD k := by
  cases t with
  | output0 | output1 | polarity0 | polarity1 | input0 | input1 => exact getLsbD_setDbctlBit _ _ _ _ (by decide)
  | chopperEnable => exact (if_neg hk.ne).symm
  | phaseEnable => exact (if_neg (hk.trans (by decide : 6 < 7)).ne).symm

theorem PwmModule.setToggle_chpEn : (x.setToggle t b).chpEn = if t = .chopperEnable then b else x.chpEn := by
  cases t <;> rfl

theorem PwmModule.setToggle_phsEn : (x.setToggle t b).phsEn = if t = .phaseEnable then b else x.phsEn := by
  cases t <;> rfl

/-- The fields a write of a Toggle reaches: `DBCTL`, `CHPEN` for toggle 6 and `PHSEN` for toggle 7. -/
theorem PwmModule.setToggle_frame :
    x.setToggle t b =
      { x with
        dbctl := (x.setToggle t b).dbctl
        chpEn := if t = .chopperEnable then b else x.chpEn
        phsEn := if t = .phaseEnable then b else x.phsEn } := by
  rw [← setToggle_chpEn, ← setToggle_phsEn]
  exact x.setToggle_eq t b

theorem PwmModule.getLsbD_chpctl_setToggle {k : Nat} (hk : k ≠ 0) :
    (x.setToggle t b).chpctl.getLsbD k = x.chpctl.getLsbD k := by
  rw [setToggle_eq]
  simp only [chpctl, BitVec.getLsbD_append, Nat.lt_one_iff, hk, if_false]

/-- In `TBCTL`, `PHSEN` stands above the two bits of `CTRMODE`. -/
theorem PwmModule.getLsbD_tbctl_setToggle {k : Nat} (hk : k ≠ 2) :
    (x.setToggle t b).tbctl.getLsbD k = x.tbctl.getLsbD k := by
  rw [setToggle_eq]
  exact getLsbD_append_ofBool_append_ne _ _ _ _ hk

/-- A Toggle reads back, and the other seven keep their value. -/
theorem PwmModule.toggle_setToggle :
    (x.setToggle t b).toggle t' = if t' = t then b else x.toggle t' := by
  cases t' with
  | output0 | output1 | polarity0 | polarity1 | input0 | input1 =>
    simp only [← Toggle.code_toNat_inj]
    exact x.getLsbD_setToggle_dbctl t b (by decide)
  | chopperEnable => simp only [toggle, setToggle_chpEn, eq_comm]
  | phaseEnable => simp only [toggle, setToggle_phsEn, eq_comm]

/-- Writing the value that a Toggle has changes nothing. -/
@[simp] theorem PwmModule.setToggle_self : x.setToggle t (x.toggle t) = x := by
  cases t with
  | output0 | output1 | polarity0 | polarity1 | input0 | input1 =>
    simp only [setToggle, toggle, setDbctlBit_self, Nat.reduceLT]
  | chopperEnable | phaseEnable => rfl

/-- The views of the registers without a Toggle. -/
theorem PwmModule.reg_setToggle {r : PwmReg} (hdb : r ≠ .dbctl) (hchp : r ≠ .chpctl) (htb : r ≠ .tbctl) :
    (x.setToggle t b).reg r = x.reg r := by
  rw [setToggle_eq]
  cases r with
  | dbctl => exact absurd rfl hdb
  | chpctl => exact absurd rfl hchp
  | tbctl => exact absurd rfl htb
  | _ => rfl

theorem PwmModule.getLsbD_chpctl_zero : x.chpctl.getLsbD 0 = x.chpEn := by
  simp only [chpctl, BitVec.getLsbD_append, Nat.one_pos, if_true, BitVec.getLsbD_ofBool, decide_true, Bool.true_and]

theorem PwmModule.getLsbD_tbctl_two : x.tbctl.getLsbD 2 = x.phsEn :=
  getLsbD_append_ofBool_append_self _ _ _

end

/-! ### The commands (42_deadband_toggle.md R178, R179, R181) -/

section
variable {s : State} {m : ModuleIndex} (t : Toggle)

theorem exec_tglDisable_of_usable (hu : s.usable m = true) :
    Completes (.tglDisable m t) s
      ((s.setPwm m ((s.pwmAt m).setToggle t false)).setRes0 (boolWord ((s.pwmAt m).toggle t))) := by
  change execTglDisable m t s = _
  simp [execTglDisable, hu]

theorem exec_tglEnable_true (hu : s.usable m = true) :
    Completes (.tglEnable m t true) s (s.setPwm m ((s.pwmAt m).setToggle t true)) := by
  change execTglEnable m t true s = _
  simp [execTglEnable, hu]

theorem exec_tglEnable_false (hu : s.usable m = true) : Completes (.tglEnable m t false) s s := by
  change execTglEnable m t false s = _
  simp [execTglEnable, hu]

theorem exec_tglRead_of_usable (hu : s.usable m = true) :
    Completes (.tglRead m t) s (s.setRes0 (boolWord ((s.pwmAt m).toggle t))) := by
  change execTglRead m t s = _
  simp [execTglRead, hu]

/-- The returned word is 1 exactly when the bit stood. -/
theorem boolWord_beq_one (b : Bool) : (boolWord b == 1) = b := by cases b <;> rfl

/-- Enabling with the old bit undoes the write of a disabled Toggle (R182). -/
theorem exec_tglEnable_restores {x : PwmModule} (hu : s.usable m = true) (slot : s.pwmAt m = x.setToggle t false) :
    ∃ v, exec (.tglEnable m t (x.toggle t)) s = .next v ∧ v.pwmAt m = x := by
  have self := x.setToggle_self t
  cases old : x.toggle t with
  | true =>
    have set : (s.pwmAt m).setToggle t true = x := by rw [slot, PwmModule.setToggle_setToggle, ← old, self]
    exact ⟨_, exec_tglEnable_true t hu, (s.pwmAt_setPwm_same m _).trans set⟩
  | false => exact ⟨_, exec_tglEnable_false t hu, slot.trans (old ▸ self)⟩

end

/-! ### The statements -/

/-- Settles O37: each clause is a law of `setToggle` or of the views. -/
theorem toggleWritesOneBit : Obligations.ToggleWritesOneBit := fun x t t' b =>
  ⟨x.setToggle_frame t b, fun _ => x.getLsbD_setToggle_dbctl t b, fun _ => x.getLsbD_chpctl_setToggle t b,
    fun _ => x.getLsbD_tbctl_setToggle t b, x.toggle_setToggle t t' b, fun same => same ▸ x.setToggle_self t,
    fun _ => x.reg_setToggle t b, x.getLsbD_chpctl_zero.symm, x.getLsbD_tbctl_two.symm, toNat_eq_sum_bits x.dbctl⟩

/-- Settles O36: one equation for each outcome of the three commands. -/
theorem toggleResults : Obligations.ToggleResults := by
  intro s m t
  refine ⟨fun hu => ⟨ends_of_not_usable rfl hu, ends_of_not_usable rfl hu, fun _ => ends_of_not_usable rfl hu⟩,
    fun hu => ?_⟩
  intro old
  have word : boolWord ((s.pwmAt m).toggle t) = old := boolWord_eq _
  exact ⟨word ▸ exec_tglDisable_of_usable t hu, exec_tglEnable_true t hu, exec_tglEnable_false t hu,
    word ▸ exec_tglRead_of_usable t hu⟩

/-- Settles O38: the disabled module stays usable, and its enable with the returned bit undoes the write. -/
theorem toggleRestoreIdiom : Obligations.ToggleRestoreIdiom := by
  intro s m t hu
  obtain ⟨u, disable, hu', slot, old⟩ := exists_next_of_completes (exec_tglDisable_of_usable t hu) hu rfl
    (s.pwmAt_setPwm_same m _) (by rw [PwmModule.setToggle_eq])
  obtain ⟨v, enable, restored⟩ := exec_tglEnable_restores t hu' slot
  refine ⟨u, v, disable, ?_, ?_, restored⟩
  · rw [slot, PwmModule.toggle_setToggle, if_pos rfl]
  · rwa [old, State.setRes0_res0, boolWord_beq_one]

end Sys2Proof.Machine
end

section
/-! PROOF. The chopper (43_chopper.md R190 to R199): which level and which duty bucket a request selects, and one
equation for each outcome of a command. -/

namespace Sys2Proof.Machine

open Sys2Proof.Statements

/-! ### The frequency code (43_chopper.md R190, R191) -/

section
variable {clk pre f j k : Nat}

/-- The levels fall as the code rises. -/
theorem chopperLevel_antitone (clk pre : Nat) : Antitone (chopperLevel clk pre) := by
  intro j k hjk
  rcases Nat.eq_zero_or_pos pre with rfl | hpre
  · simp only [chopperLevel, floorDiv, Nat.zero_mul, le_refl]
  · exact Nat.div_le_div_left (Nat.mul_le_mul_left pre (Nat.succ_le_succ hjk)) (Nat.mul_pos hpre j.succ_pos)

/-- The code is the first whose level is not above the request. -/
theorem chopperFreqCode_eq_some_iff :
    chopperFreqCode clk pre f = some k ↔
      k < 8 ∧ chopperLevel clk pre k ≤ f ∧ ∀ j < k, f < chopperLevel clk pre j := by
  simp only [chopperFreqCode, List.find?_range_eq_some, List.mem_range, decide_eq_true_eq, Bool.not_eq_true',
    decide_eq_false_iff_not, not_le]
  exact and_left_comm

/-- A request has no code exactly below the lowest level. -/
theorem chopperFreqCode_eq_none_iff : chopperFreqCode clk pre f = none ↔ f < chopperLevel clk pre 7 := by
  simp only [chopperFreqCode, List.find?_range_eq_none, Bool.not_eq_true', decide_eq_false_iff_not, not_le]
  exact ⟨fun below => below 7 (by decide),
    fun below j hj => below.trans_le (chopperLevel_antitone clk pre (Nat.le_of_lt_succ hj))⟩

/-- The level of the code is the largest that is not above the request. -/
theorem chopperLevel_le_of_chopperFreqCode (code : chopperFreqCode clk pre f = some k)
    (notAbove : chopperLevel clk pre j ≤ f) : chopperLevel clk pre j ≤ chopperLevel clk pre k := by
  obtain ⟨-, -, first⟩ := chopperFreqCode_eq_some_iff.mp code
  exact chopperLevel_antitone clk pre (Nat.le_of_not_lt fun before => (first j before).not_ge notAbove)

end

/-! ### The duty code (43_chopper.md R193) -/

/-- In an ascending table the bounds that a duty reaches come first: a duty below the first bound reaches none. -/
theorem lt_chopperDutyCode_iff {bounds : List Nat} (ascending : bounds.Pairwise (· < ·)) {d i b : Nat}
    (hb : bounds[i]? = some b) : i < chopperDutyCode bounds d ↔ b ≤ d := by
  induction bounds generalizing i with
  | nil => cases hb
  | cons a rest ih =>
    obtain ⟨above, ascending'⟩ := List.pairwise_cons.mp ascending
    by_cases reached : a ≤ d
    · have count : chopperDutyCode (a :: rest) d = chopperDutyCode rest d + 1 := by
        simp [chopperDutyCode, reached]
      rw [count]
      cases i with
      | zero => cases hb; simp [reached]
      | succ i => rw [Nat.succ_lt_succ_iff]; exact ih ascending' hb
    · have count : chopperDutyCode (a :: rest) d = 0 := by
        simp only [chopperDutyCode, List.length_eq_zero_iff, List.filter_eq_nil_iff, decide_eq_true_eq,
          List.forall_mem_cons]
        exact ⟨reached, fun c hc hcd => reached ((above c hc).le.trans hcd)⟩
      have notBelow : a ≤ b := by
        rcases List.mem_cons.mp (List.mem_of_getElem? hb) with rfl | later
        · exact le_rfl
        · exact (above b later).le
      rw [count]
      omega

/-- Settles O28: the first level not above the request is the largest such, since the levels fall; the bounds that a
duty reaches are the first of the table. -/
theorem chopperCodesQuantize : Obligations.ChopperCodesQuantize := by
  refine ⟨fun clk pre f => ⟨fun k code => ?_, chopperFreqCode_eq_none_iff⟩,
    fun bounds d ascending => ⟨fun i b hb => (lt_chopperDutyCode_iff ascending hb).symm, chopperDutyCode_le bounds d⟩,
    by decide, by decide⟩
  obtain ⟨hk, notAbove, first⟩ := chopperFreqCode_eq_some_iff.mp code
  exact ⟨hk, notAbove, first, fun j _ => chopperLevel_le_of_chopperFreqCode code⟩

/-! ### The setters (43_chopper.md R192, R194, R196) -/

section
variable {s : State} {m : ModuleIndex}

theorem exec_chpSetFreq_of_some (hu : s.usable m = true) {k : Nat}
    (code : chopperFreqCode s.sysclk.toNat s.params.chpPrescale s.arg0.toNat = some k) :
    Completes (.chpSetFreq m) s
      (s.setPwm m { s.pwmAt m with chpFreqReq := s.arg0, chpFreq := BitVec.ofNat 3 k }) := by
  change execChpSetFreq m s = _
  simp [execChpSetFreq, hu, code]

theorem exec_chpSetFreq_of_lt (hu : s.usable m = true)
    (below : s.arg0.toNat < chopperLevel s.sysclk.toNat s.params.chpPrescale 7) :
    Ends (.chpSetFreq m) .rejected s := by
  change execChpSetFreq m s = _
  simp [execChpSetFreq, hu, chopperFreqCode_eq_none_iff.mpr below]

theorem exec_chpSetDuty_of_le (hu : s.usable m = true) (inRange : s.arg0.toNat ≤ 10000) :
    Completes (.chpSetDuty m) s
      (s.setPwm m
        { s.pwmAt m with
          chpDutyReq := s.arg0.setWidth 16
          chpDuty := BitVec.ofNat 3 (chopperDutyCode s.params.chpDutyBounds s.arg0.toNat) }) := by
  change execChpSetDuty m s = _
  simp [execChpSetDuty, hu, inRange]

theorem exec_chpSetDuty_of_gt (hu : s.usable m = true) (large : 10000 < s.arg0.toNat) :
    Ends (.chpSetDuty m) .rejected s := by
  change execChpSetDuty m s = _
  simp [execChpSetDuty, hu, large.not_ge]

theorem exec_chpSetPulse_of_usable (hu : s.usable m = true) :
    Completes (.chpSetPulse m) s
      (s.setPwm m
        { s.pwmAt m with
          chpPulseReq := s.arg0
          oshtwth := BitVec.ofNat 4 (chopperPulseCode s.sysclk.toNat s.params.chpPrescale s.arg0.toNat) }) := by
  change execChpSetPulse m s = _
  simp [execChpSetPulse, hu]

/-! ### The getters (43_chopper.md R197 to R199) -/

theorem exec_chpGetFreq_request (hu : s.usable m = true) :
    Completes (.chpGetFreq m true) s (s.setRes0 (s.pwmAt m).chpFreqReq) := by
  change execChpGetFreq m true s = _
  simp [execChpGetFreq, hu]

/-- A level is not above the system clock, so it fits the result register. -/
theorem exec_chpGetFreq_level (hu : s.usable m = true) :
    Completes (.chpGetFreq m false) s
      (s.setRes0 (BitVec.ofNat 32
        (chopperLevel s.sysclk.toNat s.params.chpPrescale (s.pwmAt m).chpFreq.toNat))) := by
  have fits : chopperLevel s.sysclk.toNat s.params.chpPrescale (s.pwmAt m).chpFreq.toNat < 2 ^ 32 :=
    (floorDiv_le _ _).trans_lt s.sysclk.isLt
  change execChpGetFreq m false s = _
  simp [execChpGetFreq, hu, State.setRes0Nat_of_lt s fits]

theorem exec_chpGetDuty_request (hu : s.usable m = true) :
    Completes (.chpGetDuty m true) s (s.setRes0 ((s.pwmAt m).chpDutyReq.setWidth 32)) := by
  change execChpGetDuty m true s = _
  simp [execChpGetDuty, hu]

/-- The nominal duty of the code. -/
theorem exec_chpGetDuty_nominal (hu : s.usable m = true) :
    Completes (.chpGetDuty m false) s (s.setRes0 (BitVec.ofNat 32 (((s.pwmAt m).chpDuty.toNat + 1) * 1250))) := by
  have fits : ((s.pwmAt m).chpDuty.toNat + 1) * 1250 < 2 ^ 32 := by
    have code := (s.pwmAt m).chpDuty.isLt
    omega
  change execChpGetDuty m false s = _
  simp [execChpGetDuty, hu, State.setRes0Nat_of_lt s fits]

theorem exec_chpGetPulse_request (hu : s.usable m = true) :
    Completes (.chpGetPulse m true) s (s.setRes0 (s.pwmAt m).chpPulseReq) := by
  change execChpGetPulse m true s = _
  simp [execChpGetPulse, hu]

/-- The width of the code's ticks, where the nanoseconds fit 32 bits. -/
theorem exec_chpGetPulse_of_lt {n : Nat} (hu : s.usable m = true)
    (nanos : ticksToNs (((s.pwmAt m).oshtwth.toNat + 1) * s.params.chpPrescale) s.sysclk.toNat = some n)
    (fits : n < 2 ^ 32) : Completes (.chpGetPulse m false) s (s.setRes0 (BitVec.ofNat 32 n)) := by
  change execChpGetPulse m false s = _
  simp [execChpGetPulse, hu, nanos, State.setRes0Nat_of_lt s fits]

end

/-! ### The statements -/

/-- Settles O39: one equation for each outcome of the three setters. -/
theorem chopperSetterResults : Obligations.ChopperSetterResults := fun _ _ =>
  ⟨fun hu => ⟨ends_of_not_usable rfl hu, ends_of_not_usable rfl hu, ends_of_not_usable rfl hu⟩,
    fun hu => ⟨fun _ => exec_chpSetFreq_of_some hu, exec_chpSetFreq_of_lt hu, exec_chpSetDuty_of_le hu,
      exec_chpSetDuty_of_gt hu, exec_chpSetPulse_of_usable hu⟩⟩

/-- Settles O40: the request and the readback of the three getters. -/
theorem chopperGetterResults : Obligations.ChopperGetterResults := fun _ _ =>
  ⟨fun hu _ => ⟨ends_of_not_usable rfl hu, ends_of_not_usable rfl hu, ends_of_not_usable rfl hu⟩,
    fun hu => ⟨exec_chpGetFreq_request hu, exec_chpGetFreq_level hu, exec_chpGetDuty_request hu,
      exec_chpGetDuty_nominal hu, exec_chpGetPulse_request hu,
      fun clocked fits => exec_chpGetPulse_of_lt hu (if_neg clocked.ne') fits⟩⟩

end Sys2Proof.Machine
end

section
/-! PROOF. The sync chain and the synchronisation commands (44_sync_phase_hr.md R211 to R214, R220 to R223): the pulse
as a recursion over the modules, which records it has, and one equation for each outcome of a command. -/

namespace Sys2Proof.Machine

open Sys2Proof.Statements

/-! ### The chain as a recursion (44_sync_phase_hr.md R220 to R222) -/

/-- A sync input reads the modules and nothing else of the state. -/
theorem State.syncInEvents_congr {s t : State} (h : t.pwm = s.pwm) (fuel : Nat) (k : ModuleIndex) :
    t.syncInEvents fuel k = s.syncInEvents fuel k := by
  induction fuel generalizing k with
  | zero => rfl
  | succ fuel ih => simp only [State.syncInEvents, State.pwmAt_congr h, ih]

section
variable (s : State) {m k : ModuleIndex}

/-- The sync input of a module of the chain, the chain's rest being behind it. -/
theorem State.syncInEvents_eq (inChain : k.toNat < s.params.pwmModules) :
    s.syncInEvents (s.params.pwmModules - k.toNat) k = syncInputRecords s k := by
  have rest : s.params.pwmModules - k.toNat = s.modulesAfter k + 1 := by rw [State.modulesAfter]; omega
  rw [rest]
  rfl

/-- The last module's pulse is its own sync-out. -/
theorem State.syncPulseEvents_of_last (last : s.params.pwmModules ≤ m.toNat + 1) :
    s.syncPulseEvents m = [.syncOut m] := by
  rw [State.syncPulseEvents, State.modulesAfter, Nat.sub_eq_zero_of_le last]
  rfl

theorem toNat_nextModule (inRange : m.toNat + 1 < 16) : (BitVec.ofNat 4 (m.toNat + 1)).toNat = m.toNat + 1 := by
  rw [BitVec.toNat_ofNat, Nat.mod_eq_of_lt inRange]

/-- The pulse of a module before the last is the sync input of the next. -/
theorem State.syncPulseEvents_of_lt (slots : s.params.pwmModules ≤ 16)
    (notLast : m.toNat + 1 < s.params.pwmModules) :
    s.syncPulseEvents m = .syncOut m :: syncInputRecords s (BitVec.ofNat 4 (m.toNat + 1)) := by
  have toNat_next := toNat_nextModule (notLast.trans_le slots)
  rw [← s.syncInEvents_eq (toNat_next.trans_lt notLast), toNat_next]
  rfl

/-- `EV_SYNCIN` is the sync input of module 0 (R223). -/
theorem step_evSyncIn {rest : List Input} (modules : 1 ≤ s.params.pwmModules) (next : NextInput s .evSyncIn rest) :
    step s = .next { s with inputs := rest, history := s.history ++ syncInputRecords s 0 } := by
  have records : State.syncInEvents { s with inputs := rest } s.params.pwmModules 0 = syncInputRecords s 0 :=
    (State.syncInEvents_congr (t := { s with inputs := rest }) (s := s) rfl _ _).trans
      (s.syncInEvents_eq (k := 0) modules)
  rw [step_cons next, ← records]
  rfl

end

/-! ### The records of a pulse -/

section
variable (s : State)

/-- The module passes a sync input on: it is live and its event is `INPUT` (R222). -/
abbrev State.PassesSync (k : ModuleIndex) : Prop := (s.pwmAt k).st ≠ .uninit ∧ (s.pwmAt k).syncEvent = .input

/-- A sync input loads the phase of the module (R222). -/
abbrev State.LoadsPhase (k : ModuleIndex) : Prop := (s.pwmAt k).st = .running ∧ (s.pwmAt k).phsEn = true

/-- The pulse of module `m` reaches module `j`: every module between them passes it on. -/
def State.SyncReaches (m j : ModuleIndex) : Prop :=
  m.toNat < j.toNat ∧ j.toNat < s.params.pwmModules ∧
    ∀ k : ModuleIndex, m.toNat < k.toNat → k.toNat < j.toNat → s.PassesSync k

/-- A record that module `k` itself makes at a sync input. -/
def State.SyncRecord (k : ModuleIndex) (e : Event) : Prop :=
  s.LoadsPhase k ∧ e = .syncLoad k (s.pwmAt k).tbphs (s.pwmAt k).phsDir ∨ s.PassesSync k ∧ e = .syncOut k

variable {s} {m n j : ModuleIndex} {e : Event}

/-- What the pulse reaches is the next module, and what it reaches from there. -/
theorem State.syncReaches_iff (succ : n.toNat = m.toNat + 1) :
    s.SyncReaches m j ↔ n.toNat < s.params.pwmModules ∧ (j = n ∨ s.PassesSync n ∧ s.SyncReaches n j) := by
  constructor
  · rintro ⟨after, inChain, between⟩
    refine ⟨by omega, (Nat.eq_or_lt_of_le (succ ▸ after : n.toNat ≤ j.toNat)).imp
      (fun same => (BitVec.eq_of_toNat_eq same).symm) fun later => ?_⟩
    exact ⟨between n (by omega) later, later, inChain, fun k above below => between k (by omega) below⟩
  · rintro ⟨inChain, rfl | ⟨passes, after, inChain', between⟩⟩
    · exact ⟨by omega, inChain, fun k above below => absurd below (by omega)⟩
    · refine ⟨by omega, inChain', fun k above below => ?_⟩
      rcases Nat.eq_or_lt_of_le (succ ▸ above : n.toNat ≤ k.toNat) with same | later
      · exact BitVec.eq_of_toNat_eq same ▸ passes
      · exact between k later below

/-- A sync input records the load of its module, and the pulse that it passes on. -/
theorem mem_syncInputRecords_iff :
    e ∈ syncInputRecords s n ↔
      s.LoadsPhase n ∧ e = .syncLoad n (s.pwmAt n).tbphs (s.pwmAt n).phsDir ∨
        s.PassesSync n ∧ e ∈ s.syncPulseEvents n := by
  by_cases uninit : (s.pwmAt n).st = .uninit
  · simp [syncInputRecords, State.LoadsPhase, State.PassesSync, uninit]
  · simp [syncInputRecords, State.LoadsPhase, State.PassesSync, uninit]

/-- A pulse records its own sync-out, and what the modules it reaches record. -/
theorem mem_syncPulseEvents_iff (slots : s.params.pwmModules ≤ 16) :
    e ∈ s.syncPulseEvents m ↔ e = .syncOut m ∨ ∃ k, s.SyncReaches m k ∧ s.SyncRecord k e := by
  induction after : s.modulesAfter m generalizing m with
  | zero =>
    have last : s.params.pwmModules ≤ m.toNat + 1 := Nat.le_of_sub_eq_zero after
    have unreached (k : ModuleIndex) : ¬s.SyncReaches m k := fun ⟨above, inChain, _⟩ => by omega
    simp [s.syncPulseEvents_of_last last, unreached]
  | succ rest ih =>
    rw [State.modulesAfter] at after
    have notLast : m.toNat + 1 < s.params.pwmModules := by omega
    have succ := toNat_nextModule (notLast.trans_le slots)
    rw [s.syncPulseEvents_of_lt slots notLast]
    generalize BitVec.ofNat 4 (m.toNat + 1) = n at succ ⊢
    have ih := ih (m := n) (by rw [State.modulesAfter]; omega)
    have next : e ∈ syncInputRecords s n ↔
        s.SyncRecord n e ∨ s.PassesSync n ∧ ∃ k, s.SyncReaches n k ∧ s.SyncRecord k e := by
      rw [mem_syncInputRecords_iff, ih, and_or_left, ← or_assoc]
      rfl
    simp only [List.mem_cons, next, State.syncReaches_iff succ, succ, notLast, true_and, or_and_right, exists_or,
      exists_eq_left, and_assoc, exists_and_left]

/-- A later module's sync-out stands in the pulse exactly when the pulse reaches and passes the module. -/
theorem syncOut_mem_syncPulseEvents_iff (slots : s.params.pwmModules ≤ 16) (later : m.toNat < j.toNat) :
    .syncOut j ∈ s.syncPulseEvents m ↔ s.SyncReaches m j ∧ s.PassesSync j := by
  have other : j ≠ m := fun same => by simp [same] at later
  simp [mem_syncPulseEvents_iff slots, State.SyncRecord, other]

/-- A load stands in the pulse exactly when the pulse reaches a module whose phase it loads. -/
theorem syncLoad_mem_syncPulseEvents_iff (slots : s.params.pwmModules ≤ 16) (ph : Word) (dir : Bool) :
    .syncLoad j ph dir ∈ s.syncPulseEvents m ↔
      s.SyncReaches m j ∧ s.LoadsPhase j ∧ ph = (s.pwmAt j).tbphs ∧ dir = (s.pwmAt j).phsDir := by
  simp [mem_syncPulseEvents_iff slots, State.SyncRecord, and_assoc]

end

/-- Settles O42: the pulse is a recursion over the modules, and its records are those of the modules it reaches. -/
theorem syncChainPassesAndStops : Obligations.SyncChainPassesAndStops := by
  intro s modules slots
  refine ⟨fun _ => step_evSyncIn s modules, fun m => ⟨s.syncPulseEvents_of_last, s.syncPulseEvents_of_lt slots,
    fun j later inChain => ?_⟩⟩
  have out_iff := syncOut_mem_syncPulseEvents_iff slots later
  have load_iff := syncLoad_mem_syncPulseEvents_iff (m := m) (j := j) slots
  refine ⟨fun pass => ?_, fun pass running enabled => ?_, fun stops out => ?_, fun noLoad ph dir load => ?_,
    fun ⟨k, above, below, stops⟩ => ?_⟩
  · exact out_iff.mpr ⟨⟨later, inChain, fun k above below => pass k above below.le⟩, pass j later le_rfl⟩
  · exact (load_iff _ _).mpr ⟨⟨later, inChain, pass⟩, ⟨running, enabled⟩, rfl, rfl⟩
  · obtain ⟨-, passes⟩ := out_iff.mp out
    exact stops passes
  · obtain ⟨-, loads, -⟩ := (load_iff ph dir).mp load
    exact noLoad loads
  · have notReached : ¬s.SyncReaches m j := fun ⟨_, _, pass⟩ => stops (pass k above below)
    exact ⟨fun out => notReached (out_iff.mp out).1, fun ph dir load => notReached ((load_iff ph dir).mp load).1⟩

/-! ### The commands (44_sync_phase_hr.md R211 to R214) -/

section
variable {s : State} {m : ModuleIndex}

theorem exec_syncSetEvent_of_usable (hu : s.usable m = true) (e : SyncEvent) :
    Completes (.syncSetEvent m e) s (s.setPwm m { s.pwmAt m with syncEvent := e }) := by
  change execSyncSetEvent m e s = _
  simp [execSyncSetEvent, hu]

theorem exec_syncGetEvent_of_usable (hu : s.usable m = true) :
    Completes (.syncGetEvent m) s (s.setRes0 ((s.pwmAt m).syncEvent.code.setWidth 32)) := by
  change execSyncGetEvent m s = _
  simp [execSyncGetEvent, hu]

theorem exec_syncIsSynchronizing_of_usable (hu : s.usable m = true) :
    Completes (.syncIsSynchronizing m) s
      (s.setRes0 (if (s.pwmAt m).syncEvent = .disable then 0 else 1)) := by
  change execSyncIsSynchronizing m s = _
  simp [execSyncIsSynchronizing, hu, boolWord_eq]

theorem exec_syncSynchronize_of_disabled (hu : s.usable m = true) (off : (s.pwmAt m).syncEvent = .disable) :
    Completes (.syncSynchronize m) s (s.setRes0 0) := by
  change execSyncSynchronize m s = _
  simp [execSyncSynchronize, hu, off, boolWord_eq]

theorem exec_syncSynchronize_of_enabled (hu : s.usable m = true) (on : (s.pwmAt m).syncEvent ≠ .disable) :
    Completes (.syncSynchronize m) s ((s.recordAll (s.syncPulseEvents m)).setRes0 1) := by
  change execSyncSynchronize m s = _
  simp [execSyncSynchronize, State.syncPulse, hu, on, boolWord_eq]

end

/-- Settles O41: one equation for each outcome of the four commands. -/
theorem syncCommandResults : Obligations.SyncCommandResults := fun _ _ =>
  ⟨fun hu => ⟨fun _ => ends_of_not_usable rfl hu, ends_of_not_usable rfl hu, ends_of_not_usable rfl hu,
      ends_of_not_usable rfl hu⟩,
    fun hu => ⟨exec_syncSetEvent_of_usable hu, exec_syncGetEvent_of_usable hu,
      exec_syncIsSynchronizing_of_usable hu, exec_syncSynchronize_of_disabled hu,
      exec_syncSynchronize_of_enabled hu⟩⟩

end Sys2Proof.Machine
end

section
/-! PROOF. The phase commands (44_sync_phase_hr.md R225 to R228): one equation for each outcome of a command. -/

namespace Sys2Proof.Machine

open Sys2Proof.Statements

section
variable {s : State} {m : ModuleIndex}

theorem exec_phsSet_of_locked (hu : s.usable m = true) (locked : (s.pwmAt m).hrEn = true) :
    Completes (.phsSet m) s s := by
  change execPhsSet m s = _
  simp [execPhsSet, hu, locked]

theorem exec_phsSet_of_unlocked (hu : s.usable m = true) (unlocked : (s.pwmAt m).hrEn = false) :
    Completes (.phsSet m) s
      (s.setPwm m
        { s.pwmAt m with
          phaseNs := s.arg0
          tbphs :=
            BitVec.ofNat 32 (nsToTicks s.arg0.toNat (s.pwmAt m).tbclk.toNat s.params.phsBits) }) := by
  change execPhsSet m s = _
  simp [execPhsSet, hu, unlocked]

theorem exec_phsGet_request (hu : s.usable m = true) :
    Completes (.phsGet m true) s (s.setRes0 (s.pwmAt m).phaseNs) := by
  change execPhsGet m true s = _
  simp [execPhsGet, hu]

/-- The phase of ticks whose nanoseconds fit 32 bits. -/
theorem exec_phsGet_of_lt {n : Nat} (hu : s.usable m = true)
    (nanos : ticksToNs (s.pwmAt m).tbphs.toNat (s.pwmAt m).tbclk.toNat = some n) (fits : n < 2 ^ 32) :
    Completes (.phsGet m false) s (s.setRes0 (BitVec.ofNat 32 n)) := by
  change execPhsGet m false s = _
  simp [execPhsGet, hu, nanos, State.setRes0Nat_of_lt s fits]

theorem exec_phsSetDir_of_usable (hu : s.usable m = true) (dir : Bool) :
    Completes (.phsSetDir m dir) s (s.setPwm m { s.pwmAt m with phsDir := dir }) := by
  change execPhsSetDir m dir s = _
  simp [execPhsSetDir, hu]

theorem exec_phsGetDir_of_usable (hu : s.usable m = true) :
    Completes (.phsGetDir m) s (s.setRes0 (if (s.pwmAt m).phsDir then 1 else 0)) := by
  change execPhsGetDir m s = _
  simp [execPhsGetDir, hu, boolWord_eq]

end

/-- Settles O43: a stored readback is the quotient of R171; no ticks have the value 0 at every clock. -/
theorem phaseResults : Obligations.PhaseResults := by
  intro s m
  refine ⟨fun hu => ⟨ends_of_not_usable rfl hu, ends_of_not_usable rfl hu,
    fun _ => ⟨ends_of_not_usable rfl hu, ends_of_not_usable rfl hu⟩⟩, fun hu => ?_⟩
  have unset (zero : (s.pwmAt m).tbphs = 0) :
      ticksToNs (s.pwmAt m).tbphs.toNat (s.pwmAt m).tbclk.toNat = some 0 := by
    rw [zero]; exact ticksToNs_zero _
  exact ⟨exec_phsSet_of_locked hu, exec_phsSet_of_unlocked hu, exec_phsGet_request hu,
    fun hclk fits => exec_phsGet_of_lt hu (if_neg hclk.ne') fits,
    fun zero => exec_phsGet_of_lt hu (unset zero) (by decide),
    exec_phsSetDir_of_usable hu, exec_phsGetDir_of_usable hu⟩

end Sys2Proof.Machine
end

section
/-! PROOF. High resolution (44_sync_phase_hr.md R230 to R234): the steps as the fraction of the compare value, and one
equation for each outcome of a command. -/

namespace Sys2Proof.Machine

open Sys2Proof.Statements

/-! ### The steps (44_sync_phase_hr.md R233) -/

section
variable {a n p d : Nat} (b : Nat) {s : Nat}

/-- The remainder of a quotient is less than 1, so less than `s` shares of `1/s`. -/
theorem mod_mul_div_lt (hn : 0 < n) (hs : 0 < s) : a % n * s / n < s := by
  rw [Nat.div_lt_iff_lt_mul hn, Nat.mul_comm s n]
  exact Nat.mul_lt_mul_of_pos_right (Nat.mod_lt a hn) hs

/-- A quotient in shares of `1/s`: its whole part and the shares of its remainder. -/
theorem div_mul_add_mod_mul_div (hn : 0 < n) : a / n * s + a % n * s / n = a * s / n :=
  calc a / n * s + a % n * s / n = (a % n * s + n * (a / n * s)) / n := by
        rw [Nat.add_mul_div_left _ _ hn, Nat.add_comm]
    _ = a * s / n := by rw [← Nat.mul_assoc, ← Nat.add_mul, Nat.mod_add_div]

/-- Unclamped, the compare value of DOWN is the whole part. -/
theorem compare_down_of_unclamped (unclamped : (p + 1) * d < 2 ^ b * 10000) :
    compare b .down p d = (p + 1) * d / 10000 :=
  min_eq_left (Nat.le_sub_one_of_lt ((Nat.div_lt_iff_lt_mul (by decide)).mpr unclamped))

theorem compare_updown_eq : compare b .updown p d = (2 * p * (10000 - d) + 10000) / 20000 := by
  rw [compare, roundDiv, floorDiv, Nat.mul_assoc]

theorem hrSteps_down_of_unclamped (unclamped : (p + 1) * d < 2 ^ b * 10000) :
    hrSteps b .down p d s = (p + 1) * d % 10000 * s / 10000 := if_pos unclamped

end

/-- Settles O26: in each mode the compare value is the whole part of one quotient, and the steps are the shares of its
remainder. -/
theorem highResolutionIsTheFraction : Obligations.HighResolutionIsTheFraction := by
  intro b p d s hs _
  refine ⟨⟨mod_mul_div_lt (by decide) hs, div_mul_add_mod_mul_div (by decide)⟩, fun unclamped => ?_,
    fun clamped => if_neg clamped.not_gt, mod_mul_div_lt (by decide) hs, ?_⟩
  · rw [compare_down_of_unclamped b unclamped, hrSteps_down_of_unclamped b unclamped]
    exact ⟨mod_mul_div_lt (by decide) hs, div_mul_add_mod_mul_div (by decide)⟩
  · rw [compare_updown_eq]
    exact div_mul_add_mod_mul_div (by decide)

/-! ### The commands (44_sync_phase_hr.md R230 to R232) -/

section
variable {s : State} {m : ModuleIndex}

theorem exec_hrEnable_of_rejected (hu : s.usable m = true) (bad : s.arg0 = 0 ∨ 255 < s.arg0.toNat) :
    Ends (.hrEnable m) .rejected s := by
  have bad' : s.arg0.toNat = 0 ∨ 255 < s.arg0.toNat := bad.imp_left (congrArg BitVec.toNat)
  change execHrEnable m s = _
  simp [execHrEnable, hu, bad']

theorem exec_hrEnable_of_scale (hu : s.usable m = true) (nonzero : s.arg0 ≠ 0) (small : s.arg0.toNat ≤ 255) :
    Completes (.hrEnable m) s (s.setPwm m ((s.pwmAt m).enableHr s.params s.arg0.toNat)) := by
  have good : ¬(s.arg0.toNat = 0 ∨ 255 < s.arg0.toNat) :=
    not_or_intro (fun zero => nonzero (BitVec.eq_of_toNat_eq zero)) small.not_gt
  change execHrEnable m s = _
  rw [execHrEnable, onModule_of_usable hu, if_neg good]
  rfl

theorem exec_hrDisable_of_usable (hu : s.usable m = true) :
    Completes (.hrDisable m) s (s.setPwm m { s.pwmAt m with hrEn := false, cmpahr := 0 }) := by
  change execHrDisable m s = _
  simp [execHrDisable, hu]

theorem exec_hrIsEnabled_of_usable (hu : s.usable m = true) :
    Completes (.hrIsEnabled m) s (s.setRes0 (if (s.pwmAt m).hrEn then 1 else 0)) := by
  change execHrIsEnabled m s = _
  simp [execHrIsEnabled, hu, boolWord_eq]

end

/-! ### The resolution (44_sync_phase_hr.md R234) -/

/-- The steps of the time-base clock in one period of the task, `R` of R234, where the task has a frequency. -/
abbrev PwmModule.stepsPerPeriod (x : PwmModule) : Nat :=
  x.tbclk.toNat * (if x.hrEn then x.hrScale.toNat else 1) / x.taskFreq.toNat

section
variable {x : PwmModule}

/-- A clock of 32 bits and a scale of 8. -/
theorem PwmModule.stepsPerPeriod_lt (x : PwmModule) : x.stepsPerPeriod < 2 ^ 40 := by
  have scale : (if x.hrEn then x.hrScale.toNat else 1) ≤ 2 ^ 8 := by
    split_ifs
    · exact x.hrScale.isLt.le
    · decide
  calc x.stepsPerPeriod ≤ x.tbclk.toNat * (if x.hrEn then x.hrScale.toNat else 1) := Nat.div_le_self _ _
    _ ≤ x.tbclk.toNat * 2 ^ 8 := Nat.mul_le_mul_left _ scale
    _ < 2 ^ 32 * 2 ^ 8 := Nat.mul_lt_mul_of_pos_right x.tbclk.isLt (by decide)

/-- A resolution that is not 0 is that of a task with a frequency. -/
theorem PwmModule.resolution_of_pos (hr : 0 < x.stepsPerPeriod) : x.resolution = some x.stepsPerPeriod := by
  have hfreq : x.taskFreq.toNat ≠ 0 := fun zero => by
    rw [PwmModule.stepsPerPeriod, zero, Nat.div_zero] at hr
    exact hr.false
  exact if_neg hfreq

/-- The logarithm of a resolution that is not 0 fits `RES0`. -/
theorem State.setResolution_of_pos (s : State) {r : Nat} (hr : 0 < r) (small : r < 2 ^ 40) :
    s.setResolution (some r) = (s.setRes1Nat (some r)).setRes0 (BitVec.ofNat 32 (Nat.log 2 r)) := by
  have log : Nat.log 2 r < 2 ^ 32 := (Nat.log_lt_of_lt_pow hr.ne' small).trans (by decide)
  simp only [State.setResolution, Option.getD_some, if_neg hr.ne', floorLog2, Nat.log2_eq_log_two]
  exact State.setRes0Nat_of_lt _ log

end

section
variable {s : State} {m : ModuleIndex}

theorem exec_pwmGetResolution_of_no_task (hu : s.usable m = true) (noTask : (s.pwmAt m).taskValid = false) :
    Ends (.pwmGetResolution m) .rejected s := by
  change execPwmGetResolution m s = _
  simp [execPwmGetResolution, hu, noTask]

/-- The resolution goes to `RES1`, its logarithm to `RES0`. -/
theorem exec_pwmGetResolution_of_pos (hu : s.usable m = true) (task : (s.pwmAt m).taskValid = true)
    (hr : 0 < (s.pwmAt m).stepsPerPeriod) :
    Completes (.pwmGetResolution m) s
      ((s.setRes1Nat (some (s.pwmAt m).stepsPerPeriod)).setRes0
        (BitVec.ofNat 32 (Nat.log 2 (s.pwmAt m).stepsPerPeriod))) := by
  change execPwmGetResolution m s = _
  rw [execPwmGetResolution, onModule_of_usable hu, if_pos task, PwmModule.resolution_of_pos hr,
    s.setResolution_of_pos hr (s.pwmAt m).stepsPerPeriod_lt, finishOk_eq]

end

/-- Settles O44: one equation for each outcome of the four commands; a resolution that does not fit `RES1` leaves the
next free value there. -/
theorem highResolutionResults : Obligations.HighResolutionResults := by
  intro s m
  refine ⟨fun hu => ⟨ends_of_not_usable rfl hu, ends_of_not_usable rfl hu, ends_of_not_usable rfl hu,
    ends_of_not_usable rfl hu⟩, fun hu => ?_⟩
  refine ⟨exec_hrEnable_of_rejected hu, exec_hrEnable_of_scale hu, exec_hrDisable_of_usable hu,
    exec_hrIsEnabled_of_usable hu, exec_pwmGetResolution_of_no_task hu, fun task _ pos fits => ?_,
    fun task large => ⟨Config.freeWord s.draws, ?_⟩⟩
  · have stored := exec_pwmGetResolution_of_pos hu task pos
    rwa [State.setRes1Nat_of_lt s fits] at stored
  · have stored := exec_pwmGetResolution_of_pos hu task (Nat.lt_of_lt_of_le (by decide) large)
    rwa [State.setRes1Nat, if_neg large.not_gt] at stored

end Sys2Proof.Machine
end

section
/-! PROOF. The event trigger (45_event_trigger.md R242 to R247): one equation for each outcome of a command, and the
effect of a counter event as an equation for the whole state, from one equation for each of its pieces. -/

namespace Sys2Proof.Machine

open Sys2Proof.Statements

/-! ### The commands (45_event_trigger.md R242 to R244) -/

theorem CtrEvent.ofCode_eq_none_iff {e : BitVec 3} : CtrEvent.ofCode e = none ↔ e = 0 ∨ e = 3 := by
  revert e; decide

section
variable {s : State} {m : ModuleIndex} {x : Soc} {e : BitVec 3}

theorem exec_etSetEvent_of_supported (hu : s.usable m = true) (supported : ¬(e = 0 ∨ e = 3)) :
    Completes (.etSetEvent m x e) s
      (s.setPwm m
        { s.pwmAt m with
          socSel := (s.pwmAt m).socSel.setSoc x e
          socEn := (s.pwmAt m).socEn.setSoc x true }) := by
  obtain ⟨c, hc⟩ := Option.ne_none_iff_exists'.mp (mt CtrEvent.ofCode_eq_none_iff.mp supported)
  change execEtSetEvent m x e s = _
  simp [execEtSetEvent, hu, hc]

theorem exec_etSetEvent_of_unsupported (hu : s.usable m = true) (unsupported : e = 0 ∨ e = 3) :
    Ends (.etSetEvent m x e) .rejected s := by
  change execEtSetEvent m x e s = _
  simp [execEtSetEvent, hu, CtrEvent.ofCode_eq_none_iff.mpr unsupported]

theorem exec_etResetEvent_of_usable (hu : s.usable m = true) :
    Completes (.etResetEvent m x) s
      (s.setPwm m { s.pwmAt m with socEn := (s.pwmAt m).socEn.setSoc x false }) := by
  change execEtResetEvent m x s = _
  simp [execEtResetEvent, hu]

theorem exec_etGetEvent_of_usable (hu : s.usable m = true) :
    Completes (.etGetEvent m x) s
      (s.setRes0 (if (s.pwmAt m).socEn.ofSoc x then ((s.pwmAt m).socSel.ofSoc x).setWidth 32 else 0)) := by
  change execEtGetEvent m x s = _
  simp [execEtGetEvent, hu]

end

/-- Settles O45: one equation for each outcome of the three commands, read on each of the two lines. -/
theorem eventTriggerResults : Obligations.EventTriggerResults := by
  intro s m x e
  refine ⟨fun hu => ⟨ends_of_not_usable rfl hu, ends_of_not_usable rfl hu, ends_of_not_usable rfl hu⟩, fun hu => ?_⟩
  cases x <;>
    exact ⟨fun ne0 ne3 => exec_etSetEvent_of_supported hu (not_or_intro ne0 ne3), exec_etSetEvent_of_unsupported hu,
      exec_etResetEvent_of_usable hu, exec_etGetEvent_of_usable hu⟩

/-! ### A pass started by a SOC line (46_adc_sequencer.md R267, R268) -/

/-- The ADC after a request for a pass (R267). -/
def AdcState.startPass (a : AdcState) : AdcState :=
  if a.seqState = .idle then { a with seqState := .converting } else { a with socOverrun := true }

section
variable {a : AdcState} {m : ModuleIndex} {x : Soc}

theorem AdcState.takesSoc_iff :
    a.takesSoc m x = true ↔ a.st = .constructed ∧ a.bound = true ∧ a.trigMod = m ∧
      a.trigSrc = (if x = .soca then .soca else .socb) := by
  have source : TrigSrc.ofSoc x = if x = .soca then .soca else .socb := by cases x <;> rfl
  rw [AdcState.takesSoc, decide_eq_true_iff, source, and_comm (a := a.trigSrc = _)]

/-- A request for a pass does not change which pulses the ADC takes. -/
@[simp] theorem AdcState.takesSoc_startPass : a.startPass.takesSoc m x = a.takesSoc m x := by
  unfold AdcState.startPass
  split_ifs <;> rfl

/-- The trigger source is one line, so the ADC that takes SOCA pulses takes no SOCB pulse. -/
theorem AdcState.not_takesSoc_socb (soca : a.takesSoc m .soca = true) : ¬a.takesSoc m .socb = true := by
  intro socb
  obtain ⟨-, -, -, isSoca⟩ := takesSoc_iff.mp soca
  obtain ⟨-, -, -, isSocb⟩ := takesSoc_iff.mp socb
  exact absurd (isSoca.symm.trans isSocb) (by decide)

end

@[simp] theorem State.startConv_adc (s : State) (src : ConvSource) : (s.startConv src).adc = s.adc.startPass := by
  unfold State.startConv AdcState.startPass
  split_ifs <;> rfl

theorem State.startConv_eq_startPass (s : State) (src : ConvSource) :
    s.startConv src =
      { s with
        adc := s.adc.startPass
        history := s.history ++ if s.adc.seqState = .idle then [.convStart src] else [] } :=
  (s.startConv_eq src).trans (by rw [State.startConv_adc])

/-! ### The SOC lines of a counter event (45_event_trigger.md R246, R247) -/

/-- SOC line `x` of the module fires at event `e`, and the ADC takes its pulse. -/
abbrev State.Triggers (s : State) (m : ModuleIndex) (x : Soc) (e : CtrEvent) : Prop :=
  (s.pwmAt m).socFires x e = true ∧ s.adc.takesSoc m x = true

/-- The records of SOC line `x` at event `e`: its pulse, and the pass that the pulse starts. -/
def State.socRecords (s : State) (m : ModuleIndex) (x : Soc) (e : CtrEvent) : List Event :=
  if (s.pwmAt m).socFires x e then
    .soc m x :: (if s.Triggers m x e ∧ s.adc.seqState = .idle then [.convStart (.pwm m x)] else [])
  else []

theorem PwmModule.socFires_iff {p : PwmModule} {x : Soc} {e : CtrEvent} :
    p.socFires x e = true ↔
      if x = .soca then p.socEn.c0 = true ∧ p.socSel.c0 = e.code else p.socEn.c1 = true ∧ p.socSel.c1 = e.code := by
  cases x <;> simp [PwmModule.socFires, Pair.ofSoc]

/-- A line that starts no pass records its pulse alone. -/
theorem State.socRecords_of_not_triggers {s : State} {m : ModuleIndex} {x : Soc} {e : CtrEvent}
    (h : ¬s.Triggers m x e) : s.socRecords m x e = if (s.pwmAt m).socFires x e then [.soc m x] else [] := by
  rw [State.socRecords, if_neg (c := _ ∧ s.adc.seqState = .idle) fun both => h both.1]

/-- What a line does is decided by whether it fires, and by the ADC. -/
theorem State.triggers_congr {s t : State} {m : ModuleIndex} {x : Soc} {e : CtrEvent} (adc : t.adc = s.adc)
    (fires : (t.pwmAt m).socFires x e = (s.pwmAt m).socFires x e) : t.Triggers m x e ↔ s.Triggers m x e := by
  rw [State.Triggers, adc, fires]

theorem State.socRecords_congr {s t : State} {m : ModuleIndex} {x : Soc} {e : CtrEvent} (adc : t.adc = s.adc)
    (fires : (t.pwmAt m).socFires x e = (s.pwmAt m).socFires x e) : t.socRecords m x e = s.socRecords m x e := by
  simp only [State.socRecords, State.triggers_congr adc fires, adc, fires]

section
variable (s : State) (m : ModuleIndex) (e : CtrEvent)

theorem State.socLine_eq_socRecords (x : Soc) :
    s.socLine m x e =
      { s with
        adc := if s.Triggers m x e then s.adc.startPass else s.adc
        history := s.history ++ s.socRecords m x e } := by
  unfold State.socLine State.socPulse State.socRecords State.Triggers
  by_cases fires : (s.pwmAt m).socFires x e = true
  · by_cases takes : s.adc.takesSoc m x = true
    · simp [fires, takes, State.startConv_eq_startPass, State.record]
    · simp [fires, takes, State.record]
  · simp [fires]

/-- The two lines in their order, each read off the state before both: at most one of them is the ADC's source. -/
theorem State.socLines_eq :
    (s.socLine m .soca e).socLine m .socb e =
      { s with
        adc := if s.Triggers m .soca e ∨ s.Triggers m .socb e then s.adc.startPass else s.adc
        history := s.history ++ s.socRecords m .soca e ++ s.socRecords m .socb e } := by
  rw [State.socLine_eq_socRecords s]
  by_cases soca : s.Triggers m .soca e
  · have other : ¬s.Triggers m .socb e := fun ⟨_, takes⟩ => AdcState.not_takesSoc_socb soca.2 takes
    rw [if_pos soca, if_pos (.inl soca), State.socLine_eq_socRecords _ m e .socb]
    have other' : ¬State.Triggers { s with adc := s.adc.startPass, history := s.history ++ s.socRecords m .soca e } m
        .socb e := fun ⟨fires, takes⟩ => other ⟨fires, AdcState.takesSoc_startPass ▸ takes⟩
    rw [if_neg other', State.socRecords_of_not_triggers other', State.socRecords_of_not_triggers other]
    rfl
  · simp only [soca, if_false, false_or]
    exact State.socLine_eq_socRecords _ m e .socb

end

/-! ### The sync-out of a counter event (44_sync_phase_hr.md R224) -/

/-- The registers of a module that the sync chain reads. -/
abbrev PwmModule.syncView (x : PwmModule) := (x.syncEvent, x.st, x.phsEn, x.tbphs, x.phsDir)

theorem State.syncInEvents_congr_view {s t : State} (h : ∀ k, (t.pwmAt k).syncView = (s.pwmAt k).syncView)
    (fuel : Nat) (k : ModuleIndex) : t.syncInEvents fuel k = s.syncInEvents fuel k := by
  induction fuel generalizing k with
  | zero => rfl
  | succ fuel ih =>
    obtain ⟨syncEvent, st, phsEn, tbphs, phsDir⟩ : _ ∧ _ ∧ _ ∧ _ ∧ _ := by simpa using h k
    simp only [State.syncInEvents, st, phsEn, tbphs, phsDir, syncEvent, ih]

/-- A sync pulse reads the chain's registers and the number of modules. -/
theorem State.syncPulseEvents_congr {s t : State} (view : ∀ k, (t.pwmAt k).syncView = (s.pwmAt k).syncView)
    (params : t.params = s.params) (m : ModuleIndex) : t.syncPulseEvents m = s.syncPulseEvents m := by
  simp only [State.syncPulseEvents, State.modulesAfter, State.syncInEvents_congr_view view, params]

theorem syncFires_iff {y : SyncEvent} {e : CtrEvent} :
    syncFires y e = true ↔ y = .period ∧ e = .ctrPrd ∨ y = .edge ∧ (e = .ctruCmpb ∨ e = .ctrdCmpb) := by
  cases y <;> simp [syncFires]

/-! ### The whole effect of a counter event -/

/-- The module after a counter event: at `CTR_ZERO` its shadow registers are loaded (R246). -/
def PwmModule.afterEvent (p : PwmModule) (e : CtrEvent) : PwmModule := if e = .ctrZero then p.shadowLoad else p

section
variable (s : State) (m : ModuleIndex) (e : CtrEvent)

/-- The shadow load changes no register that a SOC line reads. -/
theorem PwmModule.socFires_afterEvent (p : PwmModule) (x : Soc) : (p.afterEvent e).socFires x e = p.socFires x e := by
  unfold PwmModule.afterEvent
  split_ifs <;> rfl

/-- The shadow load changes no register that the sync chain reads. -/
theorem PwmModule.syncView_afterEvent (p : PwmModule) : (p.afterEvent e).syncView = p.syncView := by
  unfold PwmModule.afterEvent
  split_ifs <;> rfl

/-- The sync-out of the event's module, and what the chain behind it records, do not see the shadow load. -/
theorem State.syncOutEvents_afterEvent {t : State} (pwm : t.pwm = (s.setPwm m ((s.pwmAt m).afterEvent e)).pwm)
    (params : t.params = s.params) :
    (if syncFires (t.pwmAt m).syncEvent e then t.syncPulseEvents m else []) =
      if syncFires (s.pwmAt m).syncEvent e then s.syncPulseEvents m else [] := by
  have view (k : ModuleIndex) : (t.pwmAt k).syncView = (s.pwmAt k).syncView := by
    rw [State.pwmAt_congr pwm, State.pwmAt_setPwm]
    split_ifs with same
    · rw [PwmModule.syncView_afterEvent, same]
    · rfl
  have event : (t.pwmAt m).syncEvent = (s.pwmAt m).syncEvent := congrArg Prod.fst (view m)
  rw [event, State.syncPulseEvents_congr view params]

/-- The effect of a counter event, each piece of it read off the state before the event. -/
theorem State.counterEvent_eq_records :
    s.counterEvent m e =
      { s.setPwm m ((s.pwmAt m).afterEvent e) with
        adc := if s.Triggers m .soca e ∨ s.Triggers m .socb e then s.adc.startPass else s.adc
        history := s.history ++ [.ctrEvent m e] ++ (if e = .ctrZero then [.shadowLoad m] else []) ++
          s.socRecords m .soca e ++ s.socRecords m .socb e ++
          (if syncFires (s.pwmAt m).syncEvent e then s.syncPulseEvents m else []) } := by
  generalize hu : (s.record (.ctrEvent m e)).loadAtZero m e = u
  have loaded : u =
      { s.setPwm m ((s.pwmAt m).afterEvent e) with
        history := s.history ++ [.ctrEvent m e] ++ (if e = .ctrZero then [.shadowLoad m] else []) } := by
    rw [← hu, State.loadAtZero_eq]
    rfl
  have adc : u.adc = s.adc := by rw [loaded]; rfl
  have fires (x : Soc) : (u.pwmAt m).socFires x e = (s.pwmAt m).socFires x e := by
    rw [State.pwmAt_congr (s := s.setPwm m ((s.pwmAt m).afterEvent e)) (by rw [loaded]), State.pwmAt_setPwm_same,
      PwmModule.socFires_afterEvent]
  rw [State.counterEvent, hu, State.socLines_eq, State.syncByEvent_eq,
    State.syncOutEvents_afterEvent s m e (by rw [loaded]) (by rw [loaded]; rfl)]
  simp only [State.triggers_congr adc (fires _), State.socRecords_congr adc (fires _), adc]
  rw [loaded]
  rfl

end

/-- Settles O50: the effect of the event as one equation, with the conditions of its pieces as the rules write them. -/
theorem counterEventRecordsInOrder : Obligations.CounterEventRecordsInOrder := by
  intro s m e rest next inRange running p a fires taken line syncs loaded
  have triggers (x : Soc) : s.Triggers m x e ↔ taken x := and_congr PwmModule.socFires_iff AdcState.takesSoc_iff
  have records (x : Soc) : s.socRecords m x e = line x := by
    simp only [State.socRecords, triggers, PwmModule.socFires_iff]
    rfl
  have slot : s.setPwm m (p.afterEvent e) = loaded := by
    unfold PwmModule.afterEvent loaded
    split_ifs
    · rfl
    · exact s.setPwm_pwmAt m
  have enabled : runInput (.evCtr m e) { s with inputs := rest } =
      .next ({ s with inputs := rest }.counterEvent m e) := if_pos ⟨decide_eq_true inRange, running⟩
  have pulse : State.syncPulseEvents { s with inputs := rest } m = s.syncPulseEvents m :=
    State.syncPulseEvents_congr (t := { s with inputs := rest }) (s := s) (fun _ => rfl) rfl m
  rw [step_cons next, enabled, State.counterEvent_eq_records, pulse, ← slot]
  simp only [← triggers, ← records, syncFires_iff]
  rfl

end Sys2Proof.Machine
end

section
/-! PROOF. The ADC sequencer (46_adc_sequencer.md R255 to R270): one equation for each outcome of a command, of a SOC
pulse and of a conversion. -/

namespace Sys2Proof.Machine

open Sys2Proof.Statements

section
variable {s : State}

/-! ### The ADC's checks (46_adc_sequencer.md R255, 47_ring_buffer.md R285) -/

/-- Behind the ADC check, a command on an ADC that is not constructed has no effect but its status. -/
theorem ends_of_not_constructed {i : Instr} (h : checksAdc i) (unconstructed : s.adc.st ≠ .constructed) :
    Ends i .unusable s :=
  unusableObjectIsReported.2 i s h unconstructed

@[simp] theorem onTask_of_bound {i : Instr} {k : Result} (live : s.adc.st = .constructed)
    (bound : s.adc.bound = true) : onTask i s k = k := by
  rw [onTask, onAdc_of_constructed live, if_pos bound]

@[simp] theorem onTask_of_not_bound {i : Instr} {k : Result} (live : s.adc.st = .constructed)
    (unbound : s.adc.bound = false) : onTask i s k = .next (s.finish (encode i) .rejected) := by
  rw [onTask, onAdc_of_constructed live, unbound]
  rfl

/-! ### Life cycle and clock (46_adc_sequencer.md R256 to R258) -/

theorem exec_adcConstruct_of_some {r : DivResult} (free : s.adc.st = .uninit) (ready : s.drvReady = true)
    (found : adcDivide s.params s.sysclk.toNat s.arg0.toNat = some r) :
    Completes .adcConstruct s
      ({ s.clearWritten with
          adc :=
            { AdcState.reset with
              st := .constructed
              clock := BitVec.ofNat 32 r.achieved
              coarse := BitVec.ofNat 3 r.ci
              fine := BitVec.ofNat 4 r.fi } }.setDivResult r) := by
  change execAdcConstruct s = _
  simp [execAdcConstruct, free, ready, found]

/-- The three cases of R256: an ADC in use, no clock, no divisors. -/
theorem exec_adcConstruct_of_unusable
    (h : s.adc.st = .constructed ∨ s.drvReady = false ∨
      adcDivide s.params s.sysclk.toNat s.arg0.toNat = none) :
    Ends .adcConstruct .unusable s := by
  change execAdcConstruct s = _
  unfold execAdcConstruct
  split_ifs with passed
  · obtain ⟨free, ready⟩ := passed
    have notFound : adcDivide s.params s.sysclk.toNat s.arg0.toNat = none := by simpa [free, ready] using h
    simp [notFound]
  · rfl

theorem exec_adcRelease_of_constructed (live : s.adc.st = .constructed) :
    Completes .adcRelease s { s with adc := AdcState.reset } :=
  onAdc_of_constructed live

theorem exec_adcGetClock_of_constructed (live : s.adc.st = .constructed) :
    Completes .adcGetClock s (s.setRes0 s.adc.clock) :=
  onAdc_of_constructed live

/-! ### Task registration (46_adc_sequencer.md R260) -/

theorem taskChsel_getElem (channels : Nat) (list : Word) (k : Nat) (h : k < Config.channelSlots) :
    (taskChsel channels list)[k] = if k < channels then channelId list k else 0#4 := by
  change k < 8 at h
  interval_cases k <;> rfl

theorem exec_adcRegisterTask_of_valid (live : s.adc.st = .constructed) (unbound : s.adc.bound = false)
    (valid : adcTaskValid s.params s.arg0 = true) :
    Completes .adcRegisterTask s { s.clearWritten with adc := s.adc.bindTask s.arg0 s.arg1 } := by
  change execAdcRegisterTask s = _
  simp [execAdcRegisterTask, live, unbound, valid]

theorem exec_adcRegisterTask_of_rejected (live : s.adc.st = .constructed)
    (h : s.adc.bound = true ∨ ¬adcTaskValid s.params s.arg0 = true) : Ends .adcRegisterTask .rejected s := by
  change execAdcRegisterTask s = _
  rw [execAdcRegisterTask, onAdc_of_constructed live]
  split_ifs with bound valid
  · rfl
  · exact absurd h (not_or_intro bound (not_not_intro valid))
  · rfl

/-! ### Trigger source (46_adc_sequencer.md R265) -/

section
variable {m : ModuleIndex} {src : BitVec 2} {line : TrigSrc}

theorem exec_adcSetTrigger_software (live : s.adc.st = .constructed) (m : ModuleIndex) :
    Completes (.adcSetTrigger m 0) s { s with adc := { s.adc with trigSrc := .software, trigMod := 0 } } :=
  onAdc_of_constructed live

/-- A source that is a SOC line takes its module behind a check that the module exists. -/
theorem execAdcSetTrigger_of_line (source : TrigSrc.ofBits src = some line) (isLine : line ≠ .software) :
    execAdcSetTrigger m src s =
      onAdc (.adcSetTrigger m src) s
        (if s.moduleExists m then
          finishOk (.adcSetTrigger m src) { s with adc := { s.adc with trigSrc := line, trigMod := m } }
         else finishRejected (.adcSetTrigger m src) s) := by
  rw [execAdcSetTrigger, source]
  cases line with
  | software => exact absurd rfl isLine
  | soca => rfl
  | socb => rfl

theorem exec_adcSetTrigger_of_exists (live : s.adc.st = .constructed) (source : TrigSrc.ofBits src = some line)
    (isLine : line ≠ .software) (inRange : m.toNat < s.params.pwmModules) :
    Completes (.adcSetTrigger m src) s { s with adc := { s.adc with trigSrc := line, trigMod := m } } := by
  change execAdcSetTrigger m src s = _
  rw [execAdcSetTrigger_of_line source isLine, onAdc_of_constructed live]
  exact if_pos (decide_eq_true inRange)

theorem exec_adcSetTrigger_of_not_exists (live : s.adc.st = .constructed) (source : TrigSrc.ofBits src = some line)
    (isLine : line ≠ .software) (outside : s.params.pwmModules ≤ m.toNat) :
    Ends (.adcSetTrigger m src) .rejected s := by
  change execAdcSetTrigger m src s = _
  rw [execAdcSetTrigger_of_line source isLine, onAdc_of_constructed live]
  exact if_neg fun inRange => outside.not_gt (of_decide_eq_true inRange)

end

/-! ### Starting a pass (46_adc_sequencer.md R266 to R268) -/

theorem State.startConv_of_idle {src : ConvSource} (idle : s.adc.seqState = .idle) :
    s.startConv src =
      { s with adc := { s.adc with seqState := .converting }, history := s.history ++ [.convStart src] } :=
  if_pos idle

theorem State.startConv_of_busy {src : ConvSource} (busy : s.adc.seqState ≠ .idle) :
    s.startConv src = { s with adc := { s.adc with socOverrun := true } } :=
  if_neg busy

theorem exec_adcTrigger_of_bound (live : s.adc.st = .constructed) (bound : s.adc.bound = true) :
    Completes .adcTrigger s (s.startConv .software) :=
  onTask_of_bound live bound

theorem exec_adcTrigger_of_not_bound (live : s.adc.st = .constructed) (unbound : s.adc.bound = false) :
    Ends .adcTrigger .rejected s :=
  onTask_of_not_bound live unbound

theorem State.socPulse_of_takesSoc {m : ModuleIndex} {x : Soc} (takes : s.adc.takesSoc m x = true) :
    s.socPulse m x = (s.record (.soc m x)).startConv (.pwm m x) :=
  if_pos takes

theorem State.socPulse_of_not_takesSoc {m : ModuleIndex} {x : Soc} (ignores : ¬s.adc.takesSoc m x = true) :
    s.socPulse m x = s.record (.soc m x) :=
  if_neg ignores

/-! ### Conversion (46_adc_sequencer.md R270) -/

theorem AdcState.converting_iff {a : AdcState} :
    a.converting = true ↔ a.st = .constructed ∧ a.bound = true ∧ a.seqState = .converting :=
  decide_eq_true_iff

section
variable {v : List Half}

theorem evConv_of_not_converting (h : ¬s.adc.converting = true) : evConv v s = .fault .eventNotEnabled := if_neg h

theorem evConv_of_not_admitted (enabled : s.adc.converting = true) (h : ¬s.drawsAdmitted v = true) :
    evConv v s = .fault .drawNotAdmitted := by
  rw [evConv, if_pos enabled, if_neg h]

theorem evConv_of_admitted (enabled : s.adc.converting = true) (admitted : s.drawsAdmitted v = true) :
    evConv v s = .next
      { s with
        adc := { s.adc with
          result := writeResults s.params.adcResults s.adc.result 0 v
          seqState := .complete
          intFlag := true }
        history := s.history ++ [.convDone v] } := by
  rw [evConv, if_pos enabled, if_pos admitted]
  rfl

end

end

/-! ### The obligations -/

/-- Settles O52: the two checks of the step, each as the rule writes it, and the result registers one by one. -/
theorem conversionWritesTheResults : Obligations.ConversionWritesTheResults := by
  intro s v rest next enabled admitted
  have run : step s = evConv v { s with inputs := rest } := step_cons next
  have converting : s.adc.converting = true ↔ enabled := AdcState.converting_iff
  have draws : State.drawsAdmitted { s with inputs := rest } v = true ↔ admitted := State.drawsAdmitted_iff
  refine ⟨fun h => ?_, fun he ha => ?_, fun he ha => ⟨writeResults s.params.adcResults s.adc.result 0 v, ?_, ?_⟩⟩
  · exact run.trans (evConv_of_not_converting (mt converting.mp h))
  · exact run.trans (evConv_of_not_admitted (converting.mpr he) (mt draws.mp ha))
  · intro k h
    rw [writeResults_getElem _ _ _ _ k h]
    simp
  · exact run.trans (evConv_of_admitted (converting.mpr he) (draws.mpr ha))

/-- Settles O46: one equation for each outcome of the three commands. -/
theorem adcLifeCycleResults : Obligations.AdcLifeCycleResults := fun _ =>
  ⟨fun _ => exec_adcConstruct_of_some, exec_adcConstruct_of_unusable, exec_adcRelease_of_constructed,
    exec_adcGetClock_of_constructed,
    fun h => ⟨ends_of_not_constructed (.inl (by simp)) h, ends_of_not_constructed (.inl (by simp)) h⟩⟩

/-- Settles O47: the task check as the rule writes it, and the channel-select registers one by one. -/
theorem adcRegisterTaskResult : Obligations.AdcRegisterTaskResult := by
  intro s
  refine ⟨ends_of_not_constructed (.inl (by simp)), ?_⟩
  intro live b q c r valid
  have isValid : adcTaskValid s.params s.arg0 = true ↔ valid := adcTaskValid_iff
  refine ⟨fun h => exec_adcRegisterTask_of_rejected live (h.imp_right (mt isValid.mp)), fun unbound hv => ?_⟩
  exact ⟨taskChsel c.toNat s.arg1, taskChsel_getElem c.toNat s.arg1,
    exec_adcRegisterTask_of_valid live unbound (isValid.mpr hv)⟩

/-- Settles O48: one equation for each outcome; a software trigger is the start of a pass, idle or busy. -/
theorem adcTriggerResults : Obligations.AdcTriggerResults := by
  refine fun s m => ⟨fun h => ⟨fun src hsrc => ?_, ?_⟩, fun live => ⟨?_, fun inRange => ⟨?_, ?_⟩,
    fun outside => ⟨?_, ?_⟩, ?_, fun bound idle => ?_, fun bound busy => ?_⟩⟩
  · exact ends_of_not_constructed (.inr (.inr ⟨m, src, hsrc, rfl⟩)) h
  · exact ends_of_not_constructed (.inl (by simp)) h
  · exact exec_adcSetTrigger_software live m
  · exact exec_adcSetTrigger_of_exists live rfl (by decide) inRange
  · exact exec_adcSetTrigger_of_exists live rfl (by decide) inRange
  · exact exec_adcSetTrigger_of_not_exists live (line := .soca) rfl (by decide) outside
  · exact exec_adcSetTrigger_of_not_exists live (line := .socb) rfl (by decide) outside
  · exact exec_adcTrigger_of_not_bound live
  · exact State.startConv_of_idle idle ▸ exec_adcTrigger_of_bound live bound
  · exact State.startConv_of_busy busy ▸ exec_adcTrigger_of_bound live bound

/-- Settles O51: a pulse the ADC takes records itself and asks for a pass; any other records itself alone. -/
theorem socStartsAPass : Obligations.SocStartsAPass := by
  intro s m x source
  have takes : s.adc.takesSoc m x = true ↔ source := AdcState.takesSoc_iff
  refine ⟨fun h => ?_, fun h idle => ?_, fun h busy => ?_⟩
  · exact State.socPulse_of_not_takesSoc (mt takes.mp h)
  · rw [State.socPulse_of_takesSoc (takes.mpr h), State.startConv_of_idle (s := s.record _) idle]
    simp [State.record]
  · rw [State.socPulse_of_takesSoc (takes.mpr h), State.startConv_of_busy (s := s.record _) busy]
    rfl

end Sys2Proof.Machine
end

section
/-! PROOF. The ring's commands and the ADC's status words (47_ring_buffer.md R284 to R287, R291, R300 to R302): one
equation for each outcome of a command. -/

namespace Sys2Proof.Machine

open Sys2Proof.Statements

section
variable {s : State}

/-! ### The ring (47_ring_buffer.md R280, R284) -/

/-- The ring is empty, in the fields of the rule (47_ring_buffer.md R280). -/
theorem AdcState.ringEmpty_iff_eq {a : AdcState} : a.ringEmpty = true ↔ a.isFilled = false ∧ a.free = a.full := by
  simp [AdcState.ringEmpty]

/-- Freeing a block starts the ring again from block 0 (47_ring_buffer.md R284). -/
abbrev AdcState.Resets (p : Params) (a : AdcState) : Prop :=
  p.emptyReset = true ∧ a.free = a.inc a.full ∧ a.seqLeft = 0#8

/-- The consumer's mutator, field by field (47_ring_buffer.md R284). -/
theorem AdcState.setFullIsFree_eq_ite (p : Params) (a : AdcState) :
    a.setFullIsFree p =
      { a with
        free := if a.Resets p then 0#8 else a.free
        full := if a.Resets p then 0#8 else a.inc a.full
        isFilled := false } := by
  have resets : (p.emptyReset && a.free == a.inc a.full && a.seqLeft == 0#8) = true ↔ a.Resets p := by
    simp [AdcState.Resets, and_assoc]
  unfold AdcState.setFullIsFree
  by_cases h : a.Resets p
  · rw [if_pos (resets.mpr h), if_pos h, if_pos h]
  · rw [if_neg (mt resets.mp h), if_neg h, if_neg h]

/-! ### The index commands (47_ring_buffer.md R285 to R287, R291) -/

section
variable (live : s.adc.st = .constructed) (bound : s.adc.bound = true)
include live bound

theorem exec_adcGetFreeIndex_of_bound :
    Completes .adcGetFreeIndex s
      (s.setRes0 (if s.adc.isFilled then 0xFFFFFFFF#32 else s.adc.free.setWidth 32)) :=
  onTask_of_bound live bound

theorem exec_adcGetFullIndex_of_bound :
    Completes .adcGetFullIndex s
      (s.setRes0 (if s.adc.ringEmpty then 0xFFFFFFFF#32 else s.adc.full.setWidth 32)) :=
  onTask_of_bound live bound

theorem exec_adcIsFilled_of_bound : Completes .adcIsFilled s (s.setRes0 (if s.adc.isFilled then 1 else 0)) :=
  boolWord_eq s.adc.isFilled ▸ onTask_of_bound live bound

theorem exec_adcSetFullIsFree_of_empty (empty : s.adc.ringEmpty = true) : Ends .adcSetFullIsFree .rejected s :=
  (onTask_of_bound live bound).trans (if_pos empty)

theorem exec_adcSetFullIsFree_of_not_empty (nonempty : ¬s.adc.ringEmpty = true) :
    Completes .adcSetFullIsFree s { s with adc := s.adc.setFullIsFree s.params } :=
  (onTask_of_bound live bound).trans (if_neg nonempty)

/-! ### Reading a sample (47_ring_buffer.md R300) -/

theorem exec_adcReadSample_of_out_of_range
    (h : s.adc.nBlocks.toNat ≤ s.arg0.toNat ∨ s.adc.blockWords ≤ s.arg1.toNat) : Ends .adcReadSample .rejected s :=
  (onTask_of_bound live bound).trans (if_neg (by omega))

section
variable (block : s.arg0.toNat < s.adc.nBlocks.toNat) (offset : s.arg1.toNat < s.adc.blockWords)
include block offset

theorem exec_adcReadSample_of_inside (inside : s.readAddr < s.params.adcBufWords) :
    Completes .adcReadSample s (s.readSample s.readAddr) :=
  (onTask_of_bound live bound).trans ((if_pos ⟨block, offset⟩).trans (if_pos inside))

theorem exec_adcReadSample_of_outside (outside : s.params.adcBufWords ≤ s.readAddr) :
    exec .adcReadSample s = .fault .sampleAddress :=
  (onTask_of_bound live bound).trans ((if_pos ⟨block, offset⟩).trans (if_neg outside.not_gt))

end

end

/-- A marked word with a value is returned. -/
theorem State.readSample_of_some {i : Nat} {v : Half} (marked : i ∈ s.written)
    (value : Memory.readHalf s.sram i = some v) : s.readSample i = { s with res0 := v.setWidth 32 } := by
  simp [State.readSample, State.sampleRead, marked, value]

/-- A marked word without a value reads as a free one (entry 8). -/
theorem State.readSample_of_none {i : Nat} (marked : i ∈ s.written) (noValue : Memory.readHalf s.sram i = none) :
    s.readSample i = { s with res0 := (Config.freeSample s.draws).setWidth 32, draws := s.draws + 1 } := by
  simp [State.readSample, State.sampleRead, marked, noValue]

/-- A word whose mark is clear reads as a free value and raises the fault mark. -/
theorem State.readSample_of_not_marked {i : Nat} (unmarked : i ∉ s.written) :
    s.readSample i =
      { s with
        res0 := (Config.freeSample s.draws).setWidth 32
        draws := s.draws + 1
        faults := if FaultMark.unwrittenSample ∈ s.faults then s.faults else s.faults ++ [.unwrittenSample] } := by
  rw [State.readSample, if_neg unmarked, State.raiseFault_eq]

/-! ### The status words (47_ring_buffer.md R301, R302) -/

theorem AdcState.toNat_statusLow (a : AdcState) :
    a.statusLow.toNat =
      a.seqState.bits.toNat + 4 * a.intFlag.toNat + 8 * a.bound.toNat + 16 * a.blockDone.toNat +
        32 * a.dropped.toNat + 64 * a.socOverrun.toNat + 256 * a.seqLeft.toNat := by
  simp only [AdcState.statusLow, toNat_append, toNat_ofBool, BitVec.toNat_ofNat]
  omega

theorem AdcState.toNat_statusHigh (a : AdcState) :
    a.statusHigh.toNat = a.free.toNat + 256 * a.full.toNat + 65536 * a.isFilled.toNat := by
  simp only [AdcState.statusHigh, toNat_append, toNat_ofBool, BitVec.toNat_ofNat]
  omega

/-- A flag and the complement of a mask bit: a set bit clears the flag, a clear one keeps it. -/
theorem and_not_eq_ite (flag bit : Bool) : (flag && !bit) = if bit then false else flag := by
  cases bit <;> simp

/-- The mask clears each flag whose bit is set, and keeps every other field. -/
theorem AdcState.clearSticky_eq (a : AdcState) (mask : BitVec 3) :
    a.clearSticky mask =
      { a with
        blockDone := if mask.getLsbD 0 then false else a.blockDone
        dropped := if mask.getLsbD 1 then false else a.dropped
        socOverrun := if mask.getLsbD 2 then false else a.socOverrun } := by
  simp only [← and_not_eq_ite]
  rfl

theorem exec_adcGetStatus_of_constructed (live : s.adc.st = .constructed) :
    Completes .adcGetStatus s ((s.setRes0 s.adc.statusLow).setRes1 s.adc.statusHigh) :=
  onAdc_of_constructed live

theorem exec_adcClearStatus_of_constructed (live : s.adc.st = .constructed) (mask : BitVec 3) :
    Completes (.adcClearStatus mask) s { s with adc := s.adc.clearSticky mask } :=
  onAdc_of_constructed live

end

/-! ### The statements -/

/-- Settles O57: one equation for each outcome of the four commands; the mutator is taken field by field. -/
theorem ringCommandResults : Obligations.RingCommandResults := by
  intro s
  refine ⟨fun h => ⟨ends_of_not_constructed (.inl (by simp)) h, ends_of_not_constructed (.inl (by simp)) h,
    ends_of_not_constructed (.inl (by simp)) h, ends_of_not_constructed (.inl (by simp)) h⟩, ?_⟩
  intro live empty next resets
  have isEmpty : s.adc.ringEmpty = true ↔ empty := AdcState.ringEmpty_iff_eq
  refine ⟨fun unbound => ⟨onTask_of_not_bound live unbound, onTask_of_not_bound live unbound,
    onTask_of_not_bound live unbound, onTask_of_not_bound live unbound, onTask_of_not_bound live unbound⟩,
    fun bound => ⟨exec_adcGetFreeIndex_of_bound live bound, ?_, exec_adcIsFilled_of_bound live bound,
      fun h => exec_adcSetFullIsFree_of_empty live bound (isEmpty.mpr h), fun h => ?_⟩⟩
  · have answered := exec_adcGetFullIndex_of_bound live bound
    simp only [isEmpty] at answered
    exact answered
  · have freed := exec_adcSetFullIsFree_of_not_empty live bound (mt isEmpty.mp h)
    rw [AdcState.setFullIsFree_eq_ite] at freed
    exact freed

/-- Settles O58: the command reads its word, marked or not. -/
theorem readSampleResult : Obligations.ReadSampleResult := by
  intro s live bound words i
  refine ⟨exec_adcReadSample_of_out_of_range live bound, fun block offset inside => ?_⟩
  have read : Completes .adcReadSample s (s.readSample i) :=
    exec_adcReadSample_of_inside live bound block offset inside
  exact ⟨fun v marked value => State.readSample_of_some marked value ▸ read,
    fun unmarked => ⟨Config.freeSample s.draws, State.readSample_of_not_marked unmarked ▸ read⟩⟩

/-- Settles O59: the status words as sums of their fields, and the mask bit by bit. -/
theorem adcStatusResults : Obligations.AdcStatusResults := by
  intro s mask
  refine ⟨fun h => ⟨ends_of_not_constructed (.inl (by simp)) h,
    ends_of_not_constructed (.inr (.inl ⟨mask, rfl⟩)) h⟩, fun live => ⟨?_, ?_⟩⟩
  · exact ⟨s.adc.statusLow, s.adc.statusHigh, exec_adcGetStatus_of_constructed live, s.adc.toNat_statusLow,
      s.adc.toNat_statusHigh⟩
  · exact AdcState.clearSticky_eq s.adc mask ▸ exec_adcClearStatus_of_constructed live mask

end Sys2Proof.Machine
end

section
/-! PROOF. The capture engine (47_ring_buffer.md R281, R283, R290, R292): each stage of a capture as one update of the
state, and from them the next state of the step. -/

namespace Sys2Proof.Machine

open Sys2Proof.Statements

/-! ### Words inside the sample RAM (47_ring_buffer.md R281) -/

section
variable {p : Params} {a : AdcState}

/-- A block of a legal ring ends inside the sample RAM. -/
theorem AdcState.blockEnd_le (ring : a.RingLegal p) {b k : Nat} (block : b < a.nBlocks.toNat)
    (offset : k ≤ a.blockWords) : b * a.blockWords + k ≤ p.adcBufWords := by
  obtain ⟨-, -, -, -, words, -⟩ := ring
  calc b * a.blockWords + k ≤ (b + 1) * a.blockWords := by rw [Nat.succ_mul]; omega
    _ ≤ a.nBlocks.toNat * a.blockWords := Nat.mul_le_mul_right _ block
    _ ≤ p.adcBufWords := words

/-- One sequence of a legal task has its result registers (46_adc_sequencer.md R259). -/
theorem AdcState.sampleNumber_le (admitted : p.Admitted) (ring : a.RingLegal p) : a.sampleNumber ≤ 16 := by
  obtain ⟨-, -, channels, results, -⟩ := ring
  obtain ⟨-, -, -, -, -, slots⟩ := Params.bounds_of_admitted admitted
  have two : a.nRes.toNat ≤ 2 := by
    rw [results, Params.slotResults]
    split_ifs <;> decide
  exact Nat.mul_le_mul (channels.trans slots) two

theorem AdcState.length_captureWords (few : a.sampleNumber ≤ 16) : a.captureWords.length = a.sampleNumber := by
  simp [AdcState.captureWords, few]

theorem AdcState.getElem_captureWords {k : Nat} (h : k < 16) (hk : k < a.captureWords.length) :
    a.captureWords[k] = a.result[k] := by
  simp [AdcState.captureWords]

end

/-! ### The ADC before its sequence is stored (47_ring_buffer.md R290) -/

section
variable {p : Params} {a : AdcState}

/-- A block starts on a full ring. -/
abbrev AdcState.Overwrites (a : AdcState) : Prop := a.seqLeft = 0#8 ∧ a.isFilled = true

theorem AdcState.overruns_iff : a.overruns = true ↔ a.Overwrites := by
  simp [AdcState.overruns]

/-- The ADC with a block in progress. -/
def AdcState.begun (a : AdcState) : AdcState :=
  { a with
    seqLeft := BitVec.ofNat 8 (leftBefore a)
    dropped := if a.Overwrites then true else a.dropped }

/-- A legal ring has a sequence left to store, and no more than a block of them. -/
theorem leftBefore_bounds (ring : a.RingLegal p) : 1 ≤ leftBefore a ∧ leftBefore a ≤ a.nSeq.toNat := by
  obtain ⟨seq, -, -, -, -, -, -, -, -, left, -⟩ := ring
  unfold leftBefore
  split_ifs with start
  · exact ⟨seq, le_rfl⟩
  · exact ⟨Nat.one_le_iff_ne_zero.mpr fun zero => start (BitVec.eq_of_toNat_eq zero), left⟩

variable (ring : a.RingLegal p)
include ring

/-- The sequence that is stored comes after those the block holds. -/
theorem AdcState.captureSeq_begun : a.begun.captureSeq = BitVec.ofNat 8 (a.nSeq.toNat - leftBefore a) := by
  have most := (leftBefore_bounds ring).2
  rw [← BitVec.ofNat_sub_ofNat_of_le _ _ (most.trans_lt a.nSeq.isLt) most, BitVec.ofNat_toNat, BitVec.setWidth_eq]
  rfl

/-- The first word of the sequence (47_ring_buffer.md R281). -/
theorem AdcState.captureAddr_begun :
    a.begun.captureAddr = a.free.toNat * a.blockWords + (a.nSeq.toNat - leftBefore a) * a.sampleNumber := by
  have seq : a.begun.captureSeq.toNat = a.nSeq.toNat - leftBefore a := by
    rw [AdcState.captureSeq_begun ring, BitVec.toNat_ofNat]
    exact Nat.mod_eq_of_lt ((Nat.sub_le _ _).trans_lt a.nSeq.isLt)
  rw [AdcState.captureAddr, seq]
  rfl

/-- The sequence that is stored ends inside the sample RAM. -/
theorem AdcState.captureEnd_le : a.begun.captureAddr + a.sampleNumber ≤ p.adcBufWords := by
  have ⟨_, _, _, _, _, _, free, _⟩ := ring
  obtain ⟨pos, most⟩ := leftBefore_bounds ring
  rw [AdcState.captureAddr_begun ring, Nat.add_assoc]
  refine AdcState.blockEnd_le ring free ?_
  rw [← Nat.succ_mul]
  exact Nat.mul_le_mul_right _ (by omega)

/-- The sequences left once one is counted. -/
theorem AdcState.seqLeft_begun_sub : a.begun.seqLeft - 1#8 = BitVec.ofNat 8 (leftBefore a - 1) := by
  obtain ⟨pos, most⟩ := leftBefore_bounds ring
  exact BitVec.ofNat_sub_ofNat_of_le _ _ (by decide) pos

/-- No sequence is left exactly when the one that is stored was the last. -/
theorem AdcState.seqLeft_begun_sub_eq_zero_iff : a.begun.seqLeft - 1#8 = 0#8 ↔ leftBefore a = 1 := by
  obtain ⟨pos, most⟩ := leftBefore_bounds ring
  have word := a.nSeq.isLt
  rw [AdcState.seqLeft_begun_sub ring, ← BitVec.toNat_inj, BitVec.toNat_ofNat, BitVec.toNat_ofNat]
  omega

end

/-! ### The stages of a capture (47_ring_buffer.md R290) -/

section
variable (s : State)

theorem State.beginBlock_eq :
    s.beginBlock =
      { s with
        adc := s.adc.begun
        history := s.history ++ if s.adc.Overwrites then [.drop .oldest] else [] } := by
  by_cases start : s.adc.seqLeft = 0#8
  · by_cases full : s.adc.isFilled = true
    · simp [State.beginBlock, AdcState.begun, leftBefore, start, full, State.record]
    · simp [State.beginBlock, AdcState.begun, leftBefore, start, full]
  · have kept : ¬s.adc.Overwrites := fun h => start h.1
    simp [State.beginBlock, AdcState.begun, leftBefore, start, kept]

theorem State.storeSequence_eq :
    s.storeSequence =
      { s with
        sram := (s.sampleWrites s.adc.captureAddr s.adc.captureWords).sram
        written := (s.sampleWrites s.adc.captureAddr s.adc.captureWords).written
        adc := { s.adc with seqLeft := s.adc.seqLeft - 1#8 }
        history := s.history ++ [.capture s.adc.free s.adc.captureSeq] } := by
  rw [State.storeSequence, State.sampleWrites_eq]
  rfl

/-- The ADC with its block published if no sequence of the block is left. -/
def AdcState.published (a : AdcState) : AdcState :=
  if a.seqLeft = 0#8 then { a.setFreeIsFull with blockDone := true } else a

theorem State.publishBlock_eq (b : BitVec 8) :
    s.publishBlock b =
      { s with
        adc := s.adc.published
        history := s.history ++ if s.adc.seqLeft = 0#8 then [.blockDone b] else [] } := by
  unfold State.publishBlock AdcState.published
  split_ifs
  · rfl
  · simp

/-- The state after a capture that stores its sequence. -/
def State.captured : State :=
  (s.beginBlock.storeSequence.publishBlock s.beginBlock.adc.free).resetSequencer

/-- A capture writes the sample RAM, the ADC and the history, nothing else. -/
theorem State.captured_eq :
    s.captured =
      { s with
        sram := (s.beginBlock.sampleWrites s.adc.begun.captureAddr s.adc.captureWords).sram
        written := (s.beginBlock.sampleWrites s.adc.begun.captureAddr s.adc.captureWords).written
        adc :=
          { AdcState.published { s.adc.begun with seqLeft := s.adc.begun.seqLeft - 1#8 } with
            seqState := .idle
            intFlag := false }
        history := s.history ++ (if s.adc.Overwrites then [.drop .oldest] else []) ++
          [.capture s.adc.free s.adc.begun.captureSeq] ++
          (if s.adc.begun.seqLeft - 1#8 = 0#8 then [.blockDone s.adc.free] else []) } := by
  rw [State.captured, State.publishBlock_eq, State.storeSequence_eq, State.beginBlock_eq]
  rfl

@[simp] theorem State.beginBlock_sram : s.beginBlock.sram = s.sram := by rw [State.beginBlock_eq]

@[simp] theorem State.beginBlock_written : s.beginBlock.written = s.written := by rw [State.beginBlock_eq]

end

/-! ### The sample RAM after a capture (47_ring_buffer.md R281, R290) -/

section
variable {s : State} (few : s.adc.sampleNumber ≤ 16)
include few

theorem State.readHalf_captured {k : Nat} (h : k < 16) (hk : k < s.adc.sampleNumber) :
    Memory.readHalf s.captured.sram (s.adc.begun.captureAddr + k) = some s.adc.result[k] := by
  rw [State.captured_eq, State.readHalf_sampleWrites_same _ _ _ _ (by rwa [AdcState.length_captureWords few]),
    AdcState.getElem_captureWords h]

theorem State.readByte_captured_other {a : Nat}
    (outside : a < 2 * s.adc.begun.captureAddr ∨ 2 * (s.adc.begun.captureAddr + s.adc.sampleNumber) ≤ a) :
    Memory.readByte s.captured.sram a = Memory.readByte s.sram a := by
  rw [State.captured_eq, State.readByte_sampleWrites_other _ _ _ _ (by rwa [AdcState.length_captureWords few]),
    State.beginBlock_sram]

theorem State.mem_written_captured {i : Nat} :
    i ∈ s.captured.written ↔
      (s.adc.begun.captureAddr ≤ i ∧ i < s.adc.begun.captureAddr + s.adc.sampleNumber) ∨ i ∈ s.written := by
  rw [State.captured_eq, State.mem_written_sampleWrites, AdcState.length_captureWords few, State.beginBlock_written]

end

/-! ### The ADC after a capture (47_ring_buffer.md R283, R290) -/

/-- The ADC after a capture, field by field: the block is published with its last sequence (47_ring_buffer.md R283). -/
theorem AdcState.published_counted {p : Params} {a : AdcState} (ring : a.RingLegal p) :
    { AdcState.published { a.begun with seqLeft := a.begun.seqLeft - 1#8 } with
      seqState := .idle
      intFlag := false } =
    { a with
      seqState := .idle
      intFlag := false
      seqLeft := BitVec.ofNat 8 (leftBefore a - 1)
      dropped := if a.Overwrites then true else a.dropped
      blockDone := if leftBefore a = 1 then true else a.blockDone
      free := if leftBefore a = 1 then a.inc a.free else a.free
      full := if leftBefore a = 1 ∧ a.isFilled = true then a.inc a.full else a.full
      isFilled :=
        if leftBefore a = 1 then a.isFilled || decide (a.inc a.free = a.full) else a.isFilled } := by
  have noneLeft := AdcState.seqLeft_begun_sub_eq_zero_iff ring
  have counted := AdcState.seqLeft_begun_sub ring
  by_cases last : leftBefore a = 1
  · rw [AdcState.published, if_pos (noneLeft.mpr last), AdcState.setFreeIsFull_eq, counted]
    simp only [last, true_and, if_true]
    rfl
  · rw [AdcState.published, if_neg (mt noneLeft.mp last), counted]
    simp only [last, false_and, if_false]
    rfl

/-! ### The step (47_ring_buffer.md R290; 90_conflicts.md C4) -/

section
variable {s : State}

theorem evCapture_of_not_enabled (h : ¬(s.adc.st = .constructed ∧ s.adc.intFlag = true)) :
    evCapture s = .fault .eventNotEnabled :=
  if_neg h

section
variable (live : s.adc.st = .constructed) (flag : s.adc.intFlag = true)
include live flag

theorem evCapture_of_not_bound (unbound : s.adc.bound = false) : evCapture s = .next s.resetSequencer :=
  (if_pos ⟨live, flag⟩).trans (if_neg (Bool.not_eq_true _ ▸ unbound))

theorem evCapture_of_bound (bound : s.adc.bound = true) : evCapture s = s.captureSequence :=
  (if_pos ⟨live, flag⟩).trans (if_pos bound)

end

theorem captureSequence_of_dropNewest (full : s.adc.Overwrites) (policy : s.params.overflowPolicy = .dropNewest) :
    s.captureSequence = .next s.dropNewest.resetSequencer :=
  if_pos ⟨AdcState.overruns_iff.mpr full, policy⟩

/-- In a legal state the sequence that is stored has its words, so the capture does not fault. -/
theorem evCapture_of_captures (legal : s.Legal) (captures : Captures s) : evCapture s = .next s.captured := by
  obtain ⟨admitted, -, -, ⟨-, -, -, ring⟩, -⟩ := legal
  obtain ⟨live, flag, bound, stores⟩ := captures
  have policy : ¬(s.adc.overruns = true ∧ s.params.overflowPolicy = .dropNewest) := fun ⟨full, newest⟩ =>
    have ⟨start, filled⟩ := AdcState.overruns_iff.mp full
    stores ⟨start, filled, newest⟩
  have words : s.adc.captureWords.length = s.adc.sampleNumber :=
    AdcState.length_captureWords (AdcState.sampleNumber_le admitted (ring bound))
  have inside : s.adc.begun.captureAddr + s.adc.captureWords.length ≤ s.params.adcBufWords :=
    words ▸ AdcState.captureEnd_le (ring bound)
  rw [evCapture_of_bound live flag bound, State.captureSequence, if_neg policy]
  refine if_pos ?_
  rw [State.beginBlock_eq]
  exact inside

theorem step_of_captures {rest : List Input} (legal : s.Legal) (next : NextInput s .evCapture rest)
    (captures : Captures s) : step s = .next { s with inputs := rest }.captured :=
  (step_cons next).trans (evCapture_of_captures (s := { s with inputs := rest }) legal captures)

end

/-! ### The statements -/

/-- Settles O53: one equation for each way a capture stores nothing. -/
theorem captureWithoutStoring : Obligations.CaptureWithoutStoring := by
  intro s rest next
  have run : step s = evCapture { s with inputs := rest } := step_cons next
  refine ⟨fun h => ?_, fun live flag unbound => ?_, fun live flag bound start filled policy => ?_⟩
  · exact run.trans (evCapture_of_not_enabled h)
  · exact run.trans (evCapture_of_not_bound live flag unbound)
  · calc step s = evCapture { s with inputs := rest } := run
      _ = State.captureSequence { s with inputs := rest } := evCapture_of_bound live flag bound
      _ = _ := captureSequence_of_dropNewest ⟨start, filled⟩ policy

/-- Settles O54: the words of the sequence stand at its address, and `SampleWrite` leaves the others alone. -/
theorem captureStoresTheSequence : Obligations.CaptureStoresTheSequence := by
  intro s rest legal next captures n addr
  have ⟨admitted, _, _, ⟨_, _, _, ring⟩, _⟩ := legal
  have ⟨_, _, bound, _⟩ := captures
  have first : addr = s.adc.begun.captureAddr := (AdcState.captureAddr_begun (ring bound)).symm
  have few : ({ s with inputs := rest } : State).adc.sampleNumber ≤ 16 :=
    AdcState.sampleNumber_le admitted (ring bound)
  refine ⟨_, step_of_captures legal next captures, ?_⟩
  rw [first]
  refine ⟨fun k h hk => ⟨State.readHalf_captured few h hk, ?_⟩, fun a => State.readByte_captured_other few,
    fun i outside => ?_, ?_⟩
  · exact (State.mem_written_captured few).mpr (.inl ⟨Nat.le_add_right _ _, Nat.add_lt_add_left hk _⟩)
  · exact (State.mem_written_captured few).trans (or_iff_right fun ⟨above, below⟩ =>
      outside.elim above.not_gt below.not_ge)
  · rw [State.captured_eq]
    exact ⟨rfl, rfl, rfl, rfl⟩

/-- Settles O55: counting the sequence leaves none exactly with the last one, which publishes the block. -/
theorem capturePublishesTheLastSequence : Obligations.CapturePublishesTheLastSequence := by
  intro s rest legal next captures a inc overwrites last
  have ⟨_, _, _, ⟨_, _, _, ring⟩, _⟩ := legal
  have ⟨_, _, bound, _⟩ := captures
  refine ⟨_, step_of_captures legal next captures, ?_⟩
  rw [State.captured_eq]
  refine ⟨?_, ?_⟩
  · exact AdcState.published_counted (ring bound)
  · rw [AdcState.captureSeq_begun (ring bound)]
    simp only [AdcState.seqLeft_begun_sub_eq_zero_iff (ring bound)]
    rfl

end Sys2Proof.Machine
end

section
/-! PROOF. A command always has a next state, but for ADC_READ_SAMPLE of a word outside the sample RAM, which a legal
ring excludes (47_ring_buffer.md R281; 60_exceptions.md R310). -/

namespace Sys2Proof.Machine

/-- The answer is a next state. -/
def HasNext (r : Result) : Prop := ∃ t, r = .next t

section
variable {i : Instr} {s : State}

theorem hasNext_endWith {c : Code} : HasNext (endWith i c s) := ⟨_, rfl⟩

theorem hasNext_ite {c : Prop} [Decidable c] {a b : Result} (ha : c → HasNext a) (hb : ¬c → HasNext b) :
    HasNext (if c then a else b) := by
  split_ifs with h
  · exact ha h
  · exact hb h

/-- Either branch ends the command. -/
theorem hasNext_ite_endWith {c : Prop} [Decidable c] {j : Instr} {d d' : Code} {t t' : State} :
    HasNext (if c then endWith i d t else endWith j d' t') :=
  hasNext_ite (fun _ => hasNext_endWith) fun _ => hasNext_endWith

theorem hasNext_onModule {m : ModuleIndex} {k : PwmModule → Result} (h : ∀ x, HasNext (k x)) :
    HasNext (onModule i m s k) :=
  hasNext_ite (fun _ => h _) fun _ => hasNext_endWith

/-- A getter answers the request or the readback. -/
theorem hasNext_getter {m : ModuleIndex} {set : Bool} {v : PwmModule → Word} {w : PwmModule → Option Nat} :
    HasNext (onModule i m s fun x => if set then answer i s (v x) else answerNat i s (w x)) :=
  hasNext_onModule fun _ => hasNext_ite_endWith

theorem hasNext_onAdc {k : Result} (h : HasNext k) : HasNext (onAdc i s k) :=
  hasNext_ite (fun _ => h) fun _ => hasNext_endWith

theorem hasNext_onTask {k : Result} (h : s.adc.bound = true → HasNext k) : HasNext (onTask i s k) :=
  hasNext_onAdc (hasNext_ite h fun _ => hasNext_endWith)

end

section
variable (s : State) (m : ModuleIndex)

theorem hasNext_clkdivCalc (table : DivTable) : HasNext (execClkdivCalc table s) := by
  unfold execClkdivCalc
  split <;> exact hasNext_endWith

theorem hasNext_pwmConstruct (mode : BitVec 2) : HasNext (execPwmConstruct m mode s) := by
  unfold execPwmConstruct
  split
  · exact hasNext_endWith
  · refine hasNext_ite (fun _ => ?_) fun _ => hasNext_endWith
    split <;> exact hasNext_endWith

theorem hasNext_pwmGetFreq (set : Bool) : HasNext (execPwmGetFreq m set s) :=
  hasNext_onModule fun _ =>
    hasNext_ite (fun _ => hasNext_ite_endWith)
      fun _ => hasNext_endWith

theorem hasNext_pwmGetDuty (c : BitVec 4) (set : Bool) : HasNext (execPwmGetDuty m c set s) :=
  hasNext_onModule fun _ =>
    hasNext_ite (fun _ => hasNext_ite_endWith)
      fun _ => hasNext_endWith

theorem hasNext_chpSetFreq : HasNext (execChpSetFreq m s) :=
  hasNext_onModule fun _ => by
    split <;> exact hasNext_endWith

theorem hasNext_etSetEvent (x : Soc) (e : BitVec 3) : HasNext (execEtSetEvent m x e s) :=
  hasNext_onModule fun _ => by
    split <;> exact hasNext_endWith

theorem hasNext_adcConstruct : HasNext (execAdcConstruct s) := by
  unfold execAdcConstruct
  refine hasNext_ite (fun _ => ?_) fun _ => hasNext_endWith
  split <;> exact hasNext_endWith

theorem hasNext_adcRegisterTask : HasNext (execAdcRegisterTask s) :=
  hasNext_onAdc (hasNext_ite (fun _ => hasNext_endWith) fun _ => hasNext_ite_endWith)

theorem hasNext_adcSetTrigger (src : BitVec 2) : HasNext (execAdcSetTrigger m src s) := by
  unfold execAdcSetTrigger
  split
  · exact hasNext_endWith
  · exact hasNext_onAdc hasNext_endWith
  · exact hasNext_onAdc hasNext_ite_endWith

/-- The word a sample is read from stands in the sample RAM when the ring of a bound task is legal. -/
theorem hasNext_adcReadSample (ring : s.adc.bound = true → s.adc.RingLegal s.params) :
    HasNext (execAdcReadSample s) :=
  hasNext_onTask fun bound =>
    hasNext_ite
      (fun ⟨block, offset⟩ => by
        have inside : s.readAddr < s.params.adcBufWords := AdcState.blockEnd_le (ring bound) block offset
        exact hasNext_ite (fun _ => hasNext_endWith) fun outside => absurd inside outside)
      fun _ => hasNext_endWith

/-- Every command has a next state when the ring of a bound task is legal. -/
theorem hasNext_exec (i : Instr) (ring : s.adc.bound = true → s.adc.RingLegal s.params) : HasNext (exec i s) := by
  cases i with
  | nop => exact hasNext_endWith
  | drvInit =>
    exact hasNext_ite (fun _ => hasNext_endWith) fun _ => hasNext_ite_endWith
  | clkdivCalc table => exact hasNext_clkdivCalc s table
  | pwmConstruct m mode => exact hasNext_pwmConstruct s m mode
  | pwmGetFreq m set => exact hasNext_pwmGetFreq s m set
  | pwmGetDuty m c set => exact hasNext_pwmGetDuty s m c set
  | pwmGetState m => exact hasNext_ite_endWith
  | pwmRelease m | pwmGetBounds m | dbSetRise m | dbSetFall m | chpSetPulse m | syncGetEvent m
  | syncIsSynchronizing m | phsGetDir m | hrDisable m | hrIsEnabled m =>
    exact hasNext_onModule fun _ => hasNext_endWith
  | pwmReadReg m _ | tglDisable m _ | tglRead m _ | syncSetEvent m _ | phsSetDir m _ | etResetEvent m _
  | etGetEvent m _ =>
    exact hasNext_onModule fun _ => hasNext_endWith
  | pwmStop m | chpSetDuty m | syncSynchronize m | phsSet m | hrEnable m | pwmGetResolution m =>
    exact hasNext_onModule fun _ => hasNext_ite_endWith
  | pwmStart m _ | pwmSetTask m _ | dbGetRise m _ | dbGetFall m _ => exact hasNext_onModule fun _ => hasNext_ite_endWith
  | tglEnable m t status => exact hasNext_onModule fun _ => hasNext_ite_endWith
  | chpGetFreq m set =>
    show HasNext (execChpGetFreq m set s)
    exact hasNext_getter
  | chpGetDuty m set =>
    show HasNext (execChpGetDuty m set s)
    exact hasNext_getter
  | chpGetPulse m set =>
    show HasNext (execChpGetPulse m set s)
    exact hasNext_getter
  | phsGet m set =>
    show HasNext (execPhsGet m set s)
    exact hasNext_getter
  | chpSetFreq m => exact hasNext_chpSetFreq s m
  | etSetEvent m x e => exact hasNext_etSetEvent s m x e
  | adcConstruct => exact hasNext_adcConstruct s
  | adcRegisterTask => exact hasNext_adcRegisterTask s
  | adcSetTrigger m src => exact hasNext_adcSetTrigger s m src
  | adcRelease | adcGetClock | adcGetStatus | adcClearStatus _ => exact hasNext_onAdc hasNext_endWith
  | adcTrigger | adcGetFreeIndex | adcGetFullIndex | adcIsFilled =>
    exact hasNext_onTask fun _ => hasNext_endWith
  | adcSetFullIsFree =>
    exact hasNext_onTask fun _ => hasNext_ite_endWith
  | adcReadSample => exact hasNext_adcReadSample s ring

end

/-- Settles O11: the one command that can fault reads a word of the ring, and a legal ring stands in the sample RAM. -/
theorem commandsCompleteInLegalStates : Obligations.CommandsCompleteInLegalStates := by
  intro i s legal
  obtain ⟨-, -, -, ⟨-, -, -, ring⟩, -⟩ := legal
  exact hasNext_exec s i ring

end Sys2Proof.Machine
end

section
/-! PROOF. Results without a value of 32 bits (entries 8, 9 and 11): the command runs and its register takes a free
value. -/

namespace Sys2Proof.Machine

open Sys2Proof.Statements

/-! ### Values that do not fit a word -/

/-- The value is none, or does not fit 32 bits. -/
abbrev NoWord (v : Option Nat) : Prop := ∀ n, v = some n → 2 ^ 32 ≤ n

/-- The nanoseconds of ticks at a stopped clock, and those above 32 bits (42_deadband_toggle.md R171). -/
theorem noWord_ticksToNs {t clk : Nat}
    (h : t ≠ 0 ∧ clk = 0 ∨ 2 ^ 32 ≤ (2 * (t * 1000000000) + clk) / (2 * clk)) : NoWord (ticksToNs t clk) := by
  intro n nanos
  unfold ticksToNs at nanos
  split_ifs at nanos with stopped still
  · simp [stopped, still] at h
  · cases nanos
    exact h.resolve_left fun ⟨_, zero⟩ => stopped zero

theorem noWord_quotient_zero (a : Nat) : NoWord (quotient a 0) := nofun

section
variable (s : State)

theorem State.setRes0Nat_of_noWord {v : Option Nat} (h : NoWord v) : s.setRes0Nat v = s.setRes0Free := by
  cases v with
  | none => rfl
  | some n => exact if_neg (h n rfl).not_gt

/-- The free value of a readback is counted like any other. -/
theorem State.setRes0Readback_of_noWord {x t clk : Nat} (h : NoWord (ticksToNs t clk)) :
    ∃ w : Word, s.setRes0Readback x t clk = { s with res0 := w, draws := s.draws + 1 } := by
  unfold State.setRes0Readback
  split
  · exact ⟨_, rfl⟩
  next n nanos =>
    rw [if_neg (h n nanos).not_gt]
    exact ⟨_, rfl⟩

end

/-! ### Commands that answer a free value -/

section
variable {s : State} {m : ModuleIndex}

/-- The command finishes `OK` with the next free value in `RES0` and nothing else changed. -/
abbrev AnswersFree (c : Instr) (s : State) : Prop :=
  ∃ v : Word, Completes c s { s with res0 := v, draws := s.draws + 1 }

theorem answersFree_of_setRes0Nat {c : Instr} {v : Option Nat} (run : Completes c s (s.setRes0Nat v))
    (h : NoWord v) : AnswersFree c s := by
  rw [s.setRes0Nat_of_noWord h] at run
  exact ⟨_, run⟩

theorem answersFree_of_setRes0Readback {c : Instr} {x t clk : Nat}
    (run : Completes c s (s.setRes0Readback x t clk)) (h : NoWord (ticksToNs t clk)) : AnswersFree c s := by
  obtain ⟨w, free⟩ := s.setRes0Readback_of_noWord (x := x) h
  exact ⟨w, free ▸ run⟩

variable (hu : s.usable m = true)
include hu

theorem exec_phsGet_readback :
    Completes (.phsGet m false) s (s.setRes0Nat (ticksToNs (s.pwmAt m).tbphs.toNat (s.pwmAt m).tbclk.toNat)) := by
  change execPhsGet m false s = _
  simp [execPhsGet, hu]

theorem exec_chpGetPulse_readback :
    Completes (.chpGetPulse m false) s
      (s.setRes0Nat (ticksToNs (((s.pwmAt m).oshtwth.toNat + 1) * s.params.chpPrescale) s.sysclk.toNat)) := by
  change execChpGetPulse m false s = _
  simp [execChpGetPulse, hu]

theorem exec_pwmGetFreq_of_no_period (task : (s.pwmAt m).taskValid = true) (mode : (s.pwmAt m).mode = .updown)
    (zero : (s.pwmAt m).tbprd.toNat = 0) : AnswersFree (.pwmGetFreq m false) s := by
  have run : Completes (.pwmGetFreq m false) s
      (s.setRes0Nat (freqReadback (s.pwmAt m).mode (s.pwmAt m).tbclk.toNat (s.pwmAt m).tbprd.toNat)) := by
    change execPwmGetFreq m false s = _
    simp [execPwmGetFreq, hu, task]
  refine answersFree_of_setRes0Nat run ?_
  rw [mode, zero]
  exact noWord_quotient_zero _

theorem exec_pwmGetDuty_of_no_period {c : BitVec 4} (bound : s.ChannelBound m c) (mode : (s.pwmAt m).mode ≠ .down)
    (zero : (s.pwmAt m).tbprd.toNat = 0) : AnswersFree (.pwmGetDuty m c false) s := by
  have run : Completes (.pwmGetDuty m c false) s
      (s.setRes0Nat (dutyReadback (s.pwmAt m).mode (s.pwmAt m).tbprd.toNat
        ((s.pwmAt m).cmp.channel c.toNat).toNat)) := by
    change execPwmGetDuty m c false s = _
    simp [execPwmGetDuty, hu, bound]
  refine answersFree_of_setRes0Nat run ?_
  rw [dutyReadback_of_ne_down mode, zero]
  exact noWord_quotient_zero _

end

/-! ### Bounds and resolution (41_pwm_timebase.md R157, 44_sync_phase_hr.md R234) -/

/-- A stopped clock has the lower bound of every clock, 1 Hz. -/
theorem minFrequency_of_stopped (bits : Nat) (md : Mode) : minFrequency bits md 0 = 1 := by
  have one {b : Nat} (hb : 0 < b) : max 1 (ceilDiv 0 b) = 1 := max_eq_left ((ceilDiv_le_self 0 hb).trans zero_le_one)
  cases md with
  | up | down => exact one (Nat.two_pow_pos bits)
  | updown => exact one (by have := Nat.two_pow_pos bits; omega)

section
variable {s : State} {m : ModuleIndex}

theorem exec_pwmGetBounds_of_stopped (hu : s.usable m = true) (stopped : (s.pwmAt m).tbclk = 0#32) :
    Completes (.pwmGetBounds m) s
      { s with res0 := 1, res1 := Config.freeWord s.draws, draws := s.draws + 1 } := by
  change execPwmGetBounds m s = _
  rw [execPwmGetBounds, onModule_of_usable hu, if_pos stopped, stopped, BitVec.toNat_ofNat, Nat.zero_mod,
    minFrequency_of_stopped, State.setRes0Nat_of_lt s (by decide)]
  rfl

/-- A resolution writes the two result registers and the count of free values, nothing else; `RES1` takes it. -/
theorem State.setResolution_eq (s : State) (r : Option Nat) :
    s.setResolution r =
      { s with
        res0 := (s.setResolution r).res0
        res1 := (s.setRes1Nat r).res1
        draws := (s.setResolution r).draws } := by
  rw [State.setResolution, State.setRes0Nat_eq, State.setRes1Nat_eq]

/-- `RES0` is the logarithm of the free value that stands for a resolution without a value. -/
theorem State.setResolution_none_res0 (s : State) (nonzero : (s.setRes1Nat none).res1 ≠ 0) :
    (s.setResolution none).res0 = BitVec.ofNat 32 (Nat.log 2 (s.setRes1Nat none).res1.toNat) := by
  have pos : (s.setRes1Nat none).res1.toNat ≠ 0 := fun zero => nonzero (BitVec.eq_of_toNat_eq zero)
  have log : Nat.log 2 (s.setRes1Nat none).res1.toNat < 2 ^ 32 :=
    (Nat.log_lt_of_lt_pow pos (BitVec.isLt _)).trans (by decide)
  simp only [State.setResolution, Option.getD_none, if_neg pos, floorLog2, Nat.log2_eq_log_two]
  rw [State.setRes0Nat_of_lt _ log, State.setRes0_res0]

theorem exec_pwmGetResolution_of_task (hu : s.usable m = true) (task : (s.pwmAt m).taskValid = true) :
    Completes (.pwmGetResolution m) s (s.setResolution (s.pwmAt m).resolution) := by
  change execPwmGetResolution m s = _
  simp [execPwmGetResolution, hu, task]

/-- A period shorter than one step has the resolution 0. -/
theorem PwmModule.resolution_of_lt {x : PwmModule} (freq : x.taskFreq ≠ 0)
    (small : x.tbclk.toNat * (if x.hrEn then x.hrScale.toNat else 1) < x.taskFreq.toNat) : x.resolution = some 0 := by
  have pos : x.taskFreq.toNat ≠ 0 := fun zero => freq (BitVec.eq_of_toNat_eq zero)
  rw [PwmModule.resolution, quotient, if_neg pos, floorDiv, Nat.div_eq_of_lt small]

/-- A task of 0 Hz has no resolution. -/
theorem PwmModule.resolution_of_zero {x : PwmModule} (zero : x.taskFreq = 0) : x.resolution = none :=
  if_pos (congrArg BitVec.toNat zero)

end

/-- Settles O60: each readback without a value of 32 bits, then the sample words without a value and without a place. -/
theorem unstatedResultsAreFreeValues : Obligations.UnstatedResultsAreFreeValues := by
  intro s m x p words i unstated free
  refine ⟨fun hu => ⟨fun h => ?_, fun h => ?_, fun h => ?_, fun h => ?_, fun task mode zero => ?_,
    fun c task inRange inTask mode zero => ?_, fun stopped => ⟨_, exec_pwmGetBounds_of_stopped hu stopped⟩,
    fun task => ⟨(s.setResolution x.resolution).res0, (s.setRes1Nat x.resolution).res1,
      (s.setResolution x.resolution).draws, ?_, fun freq small => ?_, fun zero nonzero => ?_⟩⟩,
    fun live bound block offset => ⟨fun inside marked noValue => ?_, fun outside => ?_⟩⟩
  · exact answersFree_of_setRes0Readback (exec_dbGetRise_readback hu) (noWord_ticksToNs h)
  · exact answersFree_of_setRes0Readback (exec_dbGetFall_readback hu) (noWord_ticksToNs h)
  · exact answersFree_of_setRes0Nat (exec_phsGet_readback hu) (noWord_ticksToNs h)
  · exact answersFree_of_setRes0Nat (exec_chpGetPulse_readback hu) (noWord_ticksToNs h)
  · exact exec_pwmGetFreq_of_no_period hu task mode zero
  · exact exec_pwmGetDuty_of_no_period hu ⟨inRange, task, inTask⟩ mode zero
  · exact State.setResolution_eq s x.resolution ▸ exec_pwmGetResolution_of_task hu task
  · rw [PwmModule.resolution_of_lt freq small]
    rfl
  · rw [PwmModule.resolution_of_zero zero] at nonzero ⊢
    exact s.setResolution_none_res0 nonzero
  · have read : Completes .adcReadSample s (s.readSample i) :=
      exec_adcReadSample_of_inside live bound block offset inside
    exact ⟨Config.freeSample s.draws, State.readSample_of_none marked noValue ▸ read⟩
  · exact exec_adcReadSample_of_outside live bound block offset outside

end Sys2Proof.Machine
end

section
/-! PROOF. Encoding and decoding (30_encoding.md R90 to R99): every command is read back from its own word, and a word
that decodes is the word of its command. -/

namespace Sys2Proof.Machine

/-! ### Codes and their inverses -/

@[simp] theorem DivTable.ofBit_toBit (t : DivTable) : DivTable.ofBit t.toBit = t := by cases t <;> rfl

@[simp] theorem DivTable.toBit_ofBit (b : Bool) : (DivTable.ofBit b).toBit = b := by cases b <;> rfl

@[simp] theorem Soc.ofBit_toBit (x : Soc) : Soc.ofBit x.toBit = x := by cases x <;> rfl

@[simp] theorem Soc.toBit_ofBit (b : Bool) : (Soc.ofBit b).toBit = b := by cases b <;> rfl

@[simp] theorem SyncEvent.ofCode_code (e : SyncEvent) : SyncEvent.ofCode e.code = e := by cases e <;> rfl

@[simp] theorem SyncEvent.code_ofCode (c : BitVec 2) : (SyncEvent.ofCode c).code = c := by revert c; decide

@[simp] theorem Toggle.code_ofCode (c : BitVec 3) : (Toggle.ofCode c).code = c := by revert c; decide

@[simp] theorem PwmReg.ofCode_code (r : PwmReg) : PwmReg.ofCode r.code = r := by cases r <;> rfl

@[simp] theorem PwmReg.code_ofCode (c : BitVec 4) : (PwmReg.ofCode c).code = c := by revert c; decide

/-! ### A field gives its bits back (30_encoding.md R92)

A row of the opcode map fixes the bits of a field that its command does not use to zero (R99); `mask` names them. -/

/-- In every word in which the bits of `mask` of the field are zero, `back` is the field. -/
def FieldKept {n : Nat} (mask : BitVec n) (back field : Word → BitVec n) : Prop :=
  ∀ w, field w &&& mask = 0 → back w = field w

section
variable {n k : Nat} {field : Word → BitVec n}

theorem fieldKept_unused : FieldKept (BitVec.allOnes n) (fun _ => 0) field := fun w zero => by
  rw [← zero, BitVec.and_allOnes]

theorem fieldKept_whole : FieldKept 0 field field := fun _ _ => rfl

/-- A field with zeros from bit `k` on is its low `k` bits, zero-extended. -/
theorem fieldKept_low : FieldKept (BitVec.allOnes n <<< k) (fun w => ((field w).setWidth k).setWidth n) field := by
  intro w zero
  apply BitVec.eq_of_getLsbD_eq
  intro j inField
  have masked : ((field w) &&& (BitVec.allOnes n <<< k)).getLsbD j = false := by rw [zero]; exact BitVec.getLsbD_zero
  by_cases low : j < k
  · simp [inField, low]
  · have high : (field w).getLsbD j = false := by
      simpa [BitVec.getLsbD_shiftLeft, inField, low, show j - k < n by omega] using masked
    simp [low, high]

/-- A flag is the low bit of its field. -/
theorem fieldKept_flag :
    FieldKept (BitVec.allOnes n <<< 1) (fun w => (BitVec.ofBool ((field w).getLsbD 0)).setWidth n) field :=
  fun w zero => (congrArg (BitVec.setWidth n) BitVec.setWidth_one.symm).trans (fieldKept_low w zero)

end

/-! ### A row whose words are the words of its commands -/

/-- A word with the fixed bits of the row is the word of the row's command. -/
def Faithful (r : CommandRow) : Prop :=
  ∀ w, w &&& r.mask = commandWord r.opcode 0 0 0 → encode (r.make w) = w

section
variable {op : BitVec 8} {mask : Word} {make : Word → Instr}

/-- A row is faithful when its command keeps each of the three fields. -/
theorem faithful_of_fields {m x : Word → BitVec 4} {v : Word → BitVec 16} {a b : BitVec 4} {c : BitVec 16}
    (word : ∀ w, encode (make w) = commandWord op (m w) (x w) (v w))
    (mKept : FieldKept a m mField) (sKept : FieldKept b x sField) (iKept : FieldKept c v iField)
    (hmask : mask = commandWord (BitVec.allOnes 8) a b c) : Faithful ⟨op, mask, make⟩ := by
  intro w fixed
  replace fixed : commandWord (opField w) (mField w &&& a) (sField w &&& b) (iField w &&& c) =
      commandWord op 0 0 0 := by
    rw [← fixed, hmask]
    conv_rhs => rw [← commandWord_fields w, Laws.EncodesInItsRow.commandWord_and, BitVec.and_allOnes]
  have opcode : opField w = op := by simpa using congrArg opField fixed
  have mZero : mField w &&& a = 0 := by simpa using congrArg mField fixed
  have sZero : sField w &&& b = 0 := by simpa using congrArg sField fixed
  have iZero : iField w &&& c = 0 := by simpa using congrArg iField fixed
  rw [word, mKept w mZero, sKept w sZero, iKept w iZero, ← opcode, commandWord_fields]

/-! #### The shapes that many rows share -/

/-- No field (`mask` is the whole word). -/
theorem faithful_bare (word : ∀ w, encode (make w) = commandWord op 0 0 0) : Faithful ⟨op, 0xFFFFFFFF#32, make⟩ :=
  faithful_of_fields word fieldKept_unused fieldKept_unused fieldKept_unused rfl

/-- The field `M` alone. -/
theorem faithful_module (word : ∀ w, encode (make w) = commandWord op (mField w) 0 0) :
    Faithful ⟨op, 0xFF0FFFFF#32, make⟩ :=
  faithful_of_fields word fieldKept_whole fieldKept_unused fieldKept_unused rfl

/-- `M` and a flag in `I[0]`. -/
theorem faithful_moduleFlag
    (word : ∀ w, encode (make w) = commandWord op (mField w) 0 ((BitVec.ofBool (iField w)[0]).setWidth 16)) :
    Faithful ⟨op, 0xFF0FFFFE#32, make⟩ :=
  faithful_of_fields word fieldKept_whole fieldKept_unused fieldKept_flag rfl

/-- `M` and a code in `I[1:0]`. -/
theorem faithful_moduleCode
    (word : ∀ w, encode (make w) = commandWord op (mField w) 0 (((iField w).setWidth 2).setWidth 16)) :
    Faithful ⟨op, 0xFF0FFFFC#32, make⟩ :=
  faithful_of_fields word fieldKept_whole fieldKept_unused fieldKept_low rfl

/-- `M` and the whole of `S`. -/
theorem faithful_moduleSelector (word : ∀ w, encode (make w) = commandWord op (mField w) (sField w) 0) :
    Faithful ⟨op, 0xFF00FFFF#32, make⟩ :=
  faithful_of_fields word fieldKept_whole fieldKept_whole fieldKept_unused rfl

/-- `M` and a code in `S[2:0]`. -/
theorem faithful_moduleToggle
    (word : ∀ w, encode (make w) = commandWord op (mField w) (((sField w).setWidth 3).setWidth 4) 0) :
    Faithful ⟨op, 0xFF08FFFF#32, make⟩ :=
  faithful_of_fields word fieldKept_whole fieldKept_low fieldKept_unused rfl

/-- `M` and a flag in `S[0]`. -/
theorem faithful_moduleLine
    (word : ∀ w, encode (make w) = commandWord op (mField w) ((BitVec.ofBool (sField w)[0]).setWidth 4) 0) :
    Faithful ⟨op, 0xFF0EFFFF#32, make⟩ :=
  faithful_of_fields word fieldKept_whole fieldKept_flag fieldKept_unused rfl

end

/-! ### The rows of the opcode map (30_encoding.md R96, R97) -/

theorem faithful_driverRows : ∀ r ∈ driverRows, Faithful r := by
  simp only [driverRows, List.forall_mem_cons]
  refine ⟨faithful_bare fun _ => rfl, faithful_bare fun _ => rfl, ?_, List.forall_mem_nil _⟩
  have word (w : Word) : encode (.clkdivCalc (.ofBit (sField w)[0])) =
      commandWord 0x02 0 ((BitVec.ofBool (sField w)[0]).setWidth 4) 0 := by simp [encode]
  exact faithful_of_fields word fieldKept_unused fieldKept_flag fieldKept_unused rfl

theorem faithful_timeBaseRows : ∀ r ∈ timeBaseRows, Faithful r := by
  simp only [timeBaseRows, List.forall_mem_cons]
  refine ⟨faithful_moduleCode fun _ => rfl, faithful_module fun _ => rfl, faithful_moduleSelector fun _ => rfl,
    faithful_moduleSelector fun _ => rfl, faithful_module fun _ => rfl, faithful_moduleFlag fun _ => rfl, ?pwmGetDuty,
    faithful_module fun _ => rfl, faithful_module fun _ => rfl, faithful_moduleSelector fun _ => ?pwmReadReg,
    List.forall_mem_nil _⟩
  case pwmGetDuty => exact faithful_of_fields (fun _ => rfl) fieldKept_whole fieldKept_whole fieldKept_flag rfl
  case pwmReadReg => simp [encode]

theorem faithful_deadBandToggleRows : ∀ r ∈ deadBandToggleRows, Faithful r := by
  simp only [deadBandToggleRows, List.forall_mem_cons]
  refine ⟨faithful_module fun _ => rfl, faithful_module fun _ => rfl, faithful_moduleFlag fun _ => rfl,
    faithful_moduleFlag fun _ => rfl, faithful_moduleToggle fun _ => ?tglDisable, ?tglEnable,
    faithful_moduleToggle fun _ => ?tglRead, List.forall_mem_nil _⟩
  case tglDisable => simp [encode]
  case tglRead => simp [encode]
  case tglEnable =>
    have word (w : Word) : encode (.tglEnable (mField w) (.ofCode ((sField w).setWidth 3)) (iField w)[0]) =
        commandWord 0x29 (mField w) (((sField w).setWidth 3).setWidth 4)
          ((BitVec.ofBool (iField w)[0]).setWidth 16) := by simp [encode]
    exact faithful_of_fields word fieldKept_whole fieldKept_low fieldKept_flag rfl

theorem faithful_chopperRows : ∀ r ∈ chopperRows, Faithful r := by
  simp only [chopperRows, List.forall_mem_cons]
  exact ⟨faithful_module fun _ => rfl, faithful_module fun _ => rfl, faithful_module fun _ => rfl,
    faithful_moduleFlag fun _ => rfl, faithful_moduleFlag fun _ => rfl, faithful_moduleFlag fun _ => rfl,
    List.forall_mem_nil _⟩

theorem faithful_syncRows : ∀ r ∈ syncRows, Faithful r := by
  simp only [syncRows, List.forall_mem_cons]
  refine ⟨faithful_moduleCode fun _ => ?syncSetEvent, faithful_module fun _ => rfl, faithful_module fun _ => rfl,
    faithful_module fun _ => rfl, faithful_module fun _ => rfl, faithful_moduleFlag fun _ => rfl,
    faithful_moduleFlag fun _ => rfl, faithful_module fun _ => rfl, faithful_module fun _ => rfl,
    faithful_module fun _ => rfl, faithful_module fun _ => rfl, faithful_module fun _ => rfl,
    List.forall_mem_nil _⟩
  case syncSetEvent => simp [encode]

theorem faithful_eventTriggerRows : ∀ r ∈ eventTriggerRows, Faithful r := by
  simp only [eventTriggerRows, List.forall_mem_cons]
  refine ⟨?etSetEvent, faithful_moduleLine fun _ => ?etResetEvent, faithful_moduleLine fun _ => ?etGetEvent,
    List.forall_mem_nil _⟩
  case etResetEvent => simp [encode]
  case etGetEvent => simp [encode]
  case etSetEvent =>
    have word (w : Word) : encode (.etSetEvent (mField w) (.ofBit (sField w)[0]) ((iField w).setWidth 3)) =
        commandWord 0x50 (mField w) ((BitVec.ofBool (sField w)[0]).setWidth 4)
          (((iField w).setWidth 3).setWidth 16) := by simp [encode]
    exact faithful_of_fields word fieldKept_whole fieldKept_flag fieldKept_low rfl

theorem faithful_adcRows : ∀ r ∈ adcRows, Faithful r := by
  simp only [adcRows, List.forall_mem_cons]
  exact ⟨faithful_bare fun _ => rfl, faithful_bare fun _ => rfl, faithful_bare fun _ => rfl, faithful_bare fun _ => rfl,
    faithful_moduleCode fun _ => rfl, faithful_bare fun _ => rfl, faithful_bare fun _ => rfl,
    faithful_bare fun _ => rfl, faithful_bare fun _ => rfl, faithful_bare fun _ => rfl, faithful_bare fun _ => rfl,
    faithful_bare fun _ => rfl,
    faithful_of_fields (fun _ => rfl) fieldKept_unused fieldKept_unused fieldKept_low rfl, List.forall_mem_nil _⟩

theorem faithful_commandRows : ∀ r ∈ commandRows, Faithful r := by
  simp only [commandRows, List.forall_mem_append]
  exact ⟨⟨⟨⟨⟨⟨faithful_driverRows, faithful_timeBaseRows⟩, faithful_deadBandToggleRows⟩, faithful_chopperRows⟩,
    faithful_syncRows⟩, faithful_eventTriggerRows⟩, faithful_adcRows⟩

/-! ### A word that decodes -/

/-- The decoder answers with the command of the word's row, which the word meets (30_encoding.md R95). -/
theorem decode_eq_ok_iff {w : Word} {i : Instr} :
    decode w = .ok i ↔
      ∃ r ∈ commandRows, r.opcode = opField w ∧ w &&& r.mask = commandWord r.opcode 0 0 0 ∧
        i.WellFormed ∧ r.make w = i := by
  constructor
  · intro decoded
    cases found : commandRows.find? (fun r => r.opcode == opField w) with
    | none => simp [decode, found] at decoded
    | some r =>
      have row : r ∈ commandRows := List.mem_of_find?_eq_some found
      have opcode : r.opcode = opField w := by simpa using List.find?_some found
      rw [decode_of_row row opcode] at decoded
      split_ifs at decoded with fixed legal
      injection decoded with command
      exact ⟨r, row, opcode, fixed, command ▸ legal, command⟩
  · rintro ⟨r, row, opcode, fixed, legal, rfl⟩
    rw [decode_of_row row opcode, if_pos fixed, if_pos legal]

/-- Settles O2: the row that the word decodes by is faithful. -/
theorem decodeThenEncode : Obligations.DecodeThenEncode := by
  intro w i decoded
  obtain ⟨r, row, -, fixed, legal, rfl⟩ := decode_eq_ok_iff.1 decoded
  exact ⟨faithful_commandRows r row w fixed, legal⟩

/-! ### A command's own word -/

section
open Laws.EncodesInItsRow

/-- The word of every command stands in a row, with the row's fixed bits. -/
theorem encodesInItsRow (i : Instr) : Statement i := by
  cases i
  exacts [nop, drvInit, clkdivCalc _, pwmConstruct _ _, pwmRelease _, pwmStart _ _, pwmSetTask _ _, pwmStop _,
    pwmGetFreq _ _, pwmGetDuty _ _ _, pwmGetBounds _, pwmGetState _, pwmReadReg _ _, dbSetRise _, dbSetFall _,
    dbGetRise _ _, dbGetFall _ _, tglDisable _ _, tglEnable _ _ _, tglRead _ _, chpSetFreq _, chpSetDuty _,
    chpSetPulse _, chpGetFreq _ _, chpGetDuty _ _, chpGetPulse _ _, syncSetEvent _ _, syncGetEvent _,
    syncIsSynchronizing _, syncSynchronize _, phsSet _, phsGet _ _, phsSetDir _ _, phsGetDir _, hrEnable _,
    hrDisable _, hrIsEnabled _, pwmGetResolution _, etSetEvent _ _ _, etResetEvent _ _, etGetEvent _ _, adcConstruct,
    adcRelease, adcGetClock, adcRegisterTask, adcSetTrigger _ _, adcTrigger, adcGetFreeIndex, adcGetFullIndex,
    adcSetFullIsFree, adcIsFilled, adcReadSample, adcGetStatus, adcClearStatus _]

end

/-- A command is read back from its word when the row of its opcode gives it back. -/
theorem decode_encode_of_make {i : Instr} {op : BitVec 8} {m x : BitVec 4} {v : BitVec 16} {r : CommandRow}
    (word : encode i = commandWord op m x v) (row : commandRows.find? (fun r => r.opcode == op) = some r)
    (make : r.make (commandWord op m x v) = i) (legal : i.WellFormed) : decode (encode i) = .ok i := by
  obtain ⟨r', found, opcode, fixed⟩ := encodesInItsRow i
  rw [word, opField_commandWord, row] at found
  obtain rfl : r = r' := Option.some.inj found
  exact decode_eq_ok_iff.2 ⟨r, List.mem_of_find?_eq_some row, opcode, fixed, legal, word ▸ make⟩

/-- Settles O1: the row of each command reads its fields back from the command's word. -/
theorem encodeThenDecode : Obligations.EncodeThenDecode := by
  intro i legal
  cases i with
  | nop | drvInit | adcConstruct | adcRelease | adcGetClock | adcRegisterTask | adcTrigger | adcGetFreeIndex
  | adcGetFullIndex | adcSetFullIsFree | adcIsFilled | adcReadSample | adcGetStatus =>
    exact decode_encode_of_make rfl rfl rfl legal
  | tglDisable | tglEnable | tglRead => exact decode_encode_of_make rfl rfl (by simp [Toggle.ofCode_code]) legal
  | clkdivCalc | pwmConstruct | pwmRelease | pwmStart | pwmSetTask | pwmStop | pwmGetFreq | pwmGetDuty | pwmGetBounds
  | pwmGetState | pwmReadReg | dbSetRise | dbSetFall | dbGetRise | dbGetFall | chpSetFreq | chpSetDuty | chpSetPulse
  | chpGetFreq | chpGetDuty | chpGetPulse | syncSetEvent | syncGetEvent | syncIsSynchronizing | syncSynchronize | phsSet
  | phsGet | phsSetDir | phsGetDir | hrEnable | hrDisable | hrIsEnabled | pwmGetResolution | etSetEvent | etResetEvent
  | etGetEvent | adcSetTrigger | adcClearStatus =>
    exact decode_encode_of_make rfl rfl (by simp) legal

/-! ### Words the spec writes out (95_test_vectors.md sections 2 and 3) -/

/-- A word is read as a command when it is the command's word. -/
theorem decode_of_encode_eq {w : Word} {i : Instr} (word : encode i = w) (legal : i.WellFormed) : decode w = .ok i :=
  word ▸ encodeThenDecode i legal

/-- Settles O3: each word that names a command is that command's word; the others have toggle bit 3 set, an opcode of
no row, and trigger source 3. -/
theorem specWordsDecode : Obligations.SpecWordsDecode := by
  have toggleRow : ⟨0x28#8, 0xFF08FFFF#32, fun w => .tglDisable (mField w) (.ofCode ((sField w).setWidth 3))⟩ ∈
      commandRows := by simp [commandRows, deadBandToggleRows]
  exact ⟨decode_of_encode_eq rfl rfl, decode_of_encode_eq rfl rfl, decode_of_encode_eq rfl rfl,
    decode_of_encode_eq rfl rfl, decode_of_encode_eq rfl rfl, decode_of_encode_eq rfl rfl,
    decode_of_encode_eq rfl rfl, decode_of_encode_eq rfl rfl, decode_of_encode_eq rfl rfl,
    decode_of_fixed_bits_ne toggleRow rfl (by decide), decode_of_reserved (by decide), decode_adcSetTrigger_source3 0⟩

end Sys2Proof.Machine
end

section
/-! PROOF. How a command ends (60_exceptions.md R310 to R316): after its work, which records no end of a command and
leaves the argument registers alone, comes one `finish` of its own word; a command that does not finish `OK` has done
no work. -/

namespace Sys2Proof.Machine

open Sys2Proof.Statements

/-! ### Records that end no command -/

/-- None of the records is the end of a command. -/
def NoCmd (es : List Event) : Prop := ∀ e ∈ es, isCmd e = false

theorem noCmd_nil : NoCmd [] := List.forall_mem_nil _

theorem noCmd_cons {e : Event} {es : List Event} (he : isCmd e = false) (hes : NoCmd es) : NoCmd (e :: es) :=
  List.forall_mem_cons.2 ⟨he, hes⟩

theorem noCmd_append {es fs : List Event} (hes : NoCmd es) (hfs : NoCmd fs) : NoCmd (es ++ fs) :=
  List.forall_mem_append.2 ⟨hes, hfs⟩

theorem noCmd_ite {c : Prop} [Decidable c] {es fs : List Event} (hes : NoCmd es) (hfs : NoCmd fs) :
    NoCmd (if c then es else fs) := by
  split_ifs
  · exact hes
  · exact hfs

/-- The sync chain records sync-outs and phase loads only (44_sync_phase_hr.md R222). -/
theorem noCmd_syncInEvents (s : State) (fuel : Nat) (m : ModuleIndex) : NoCmd (s.syncInEvents fuel m) := by
  induction fuel generalizing m with
  | zero => exact noCmd_nil
  | succ fuel ih =>
    have load (x : PwmModule) : NoCmd [.syncLoad m x.tbphs x.phsDir] := noCmd_cons rfl noCmd_nil
    exact noCmd_ite noCmd_nil
      (noCmd_append (noCmd_ite (load _) noCmd_nil) (noCmd_ite (noCmd_cons rfl (ih _)) noCmd_nil))

/-! ### The work of a command -/

/-- What the work of a command keeps: the argument registers and the history, behind which it may put records, none of
them the end of a command. -/
structure Works (s u : State) : Prop where
  arg0 : u.arg0 = s.arg0 := by rfl
  arg1 : u.arg1 = s.arg1 := by rfl
  arg2 : u.arg2 = s.arg2 := by rfl
  arg3 : u.arg3 = s.arg3 := by rfl
  history : ∃ es, NoCmd es ∧ u.history = s.history ++ es := by exact ⟨[], noCmd_nil, (List.append_nil _).symm⟩

section
variable (s : State)

theorem works_setRes0Nat (v : Option Nat) : Works s (s.setRes0Nat v) := by
  rw [State.setRes0Nat_eq]; exact {}

theorem works_setRes0Readback (x t clk : Nat) : Works s (s.setRes0Readback x t clk) := by
  rw [State.setRes0Readback_eq]; exact {}

theorem works_setResolution (r : Option Nat) : Works s (s.setResolution r) := by
  rw [State.setResolution_eq]; exact {}

theorem works_setBounds (v w : Option Nat) : Works s ((s.setRes0Nat v).setRes1Nat w) := by
  rw [State.setRes1Nat_eq, State.setRes0Nat_eq]; exact {}

theorem works_readSample (i : Nat) : Works s (s.readSample i) := by
  unfold State.readSample
  split
  · exact {}
  · rw [State.raiseFault_eq]; exact {}

theorem works_startConv (src : ConvSource) : Works s (s.startConv src) := by
  rw [State.startConv_eq]
  exact { history := ⟨_, noCmd_ite (noCmd_cons rfl noCmd_nil) noCmd_nil, rfl⟩ }

/-- PWM_START loads the shadow registers, with a record. -/
theorem works_loadTask (m : ModuleIndex) (x : PwmModule) : Works s ((s.setPwm m x).record (.shadowLoad m)) where
  history := ⟨[.shadowLoad m], noCmd_cons rfl noCmd_nil, rfl⟩

theorem works_syncPulse (m : ModuleIndex) (v : Word) : Works s ((s.syncPulse m).setRes0 v) where
  history := ⟨s.syncPulseEvents m, noCmd_cons rfl (noCmd_syncInEvents s _ _), rfl⟩

end

/-! ### Answers -/

/-- The answer ends the command `i`: its next state is the `finish` of the command's word after some work, and of no
work at all when the code is not `OK`. -/
def Finishes (i : Instr) (s : State) (r : Result) : Prop :=
  ∀ t, r = .next t → ∃ u c, t = u.finish (encode i) c ∧ Works s u ∧ (c ≠ .ok → u = s)

section
variable {i : Instr} {s : State}

theorem finishes_ok {u : State} (work : Works s u) : Finishes i s (finishOk i u) := by
  rintro _ ⟨⟩
  exact ⟨u, .ok, rfl, work, fun h => absurd rfl h⟩

theorem finishes_kept {c : Code} : Finishes i s (endWith i c s) := by
  rintro _ ⟨⟩
  exact ⟨s, c, rfl, {}, fun _ => rfl⟩

theorem finishes_fault (f : Fault) : Finishes i s (.fault f) := by
  rintro _ ⟨⟩

theorem finishes_ite {c : Prop} [Decidable c] {a b : Result} (ha : Finishes i s a) (hb : Finishes i s b) :
    Finishes i s (if c then a else b) := by
  split_ifs
  · exact ha
  · exact hb

/-- A command that does its work under a condition and is refused otherwise. -/
theorem finishes_checked {c : Prop} [Decidable c] {u : State} {d : Code} (work : Works s u) :
    Finishes i s (if c then finishOk i u else endWith i d s) :=
  finishes_ite (finishes_ok work) finishes_kept

theorem finishes_onModule {m : ModuleIndex} {k : PwmModule → Result} (h : ∀ x, Finishes i s (k x)) :
    Finishes i s (onModule i m s k) :=
  finishes_ite (h _) finishes_kept

theorem finishes_onAdc {k : Result} (h : Finishes i s k) : Finishes i s (onAdc i s k) := finishes_ite h finishes_kept

theorem finishes_onTask {k : Result} (h : Finishes i s k) : Finishes i s (onTask i s k) :=
  finishes_onAdc (finishes_ite h finishes_kept)

/-- A getter that answers the request, or a readback that may have no value. -/
theorem finishes_request {set : Bool} {v : Word} {w : Option Nat} :
    Finishes i s (if set then answer i s v else answerNat i s w) :=
  finishes_ite (finishes_ok {}) (finishes_ok (works_setRes0Nat s w))

end

/-! ### Commands that decide by a search or a code -/

section
variable (s : State) (m : ModuleIndex)

theorem finishes_clkdivCalc (table : DivTable) : Finishes (.clkdivCalc table) s (execClkdivCalc table s) := by
  unfold execClkdivCalc
  split
  · exact finishes_kept
  · exact finishes_ok {}

theorem finishes_pwmConstruct (mode : BitVec 2) : Finishes (.pwmConstruct m mode) s (execPwmConstruct m mode s) := by
  unfold execPwmConstruct
  split
  · exact finishes_kept
  · refine finishes_ite ?_ finishes_kept
    split
    · exact finishes_kept
    · exact finishes_ok {}

theorem finishes_chpSetFreq : Finishes (.chpSetFreq m) s (execChpSetFreq m s) :=
  finishes_onModule fun _ => by
    split
    · exact finishes_kept
    · exact finishes_ok {}

theorem finishes_etSetEvent (x : Soc) (e : BitVec 3) : Finishes (.etSetEvent m x e) s (execEtSetEvent m x e s) :=
  finishes_onModule fun _ => by
    split
    · exact finishes_kept
    · exact finishes_ok {}

theorem finishes_adcConstruct : Finishes .adcConstruct s (execAdcConstruct s) := by
  refine finishes_ite ?_ finishes_kept
  split
  · exact finishes_kept
  · exact finishes_ok {}

theorem finishes_adcSetTrigger (src : BitVec 2) : Finishes (.adcSetTrigger m src) s (execAdcSetTrigger m src s) := by
  unfold execAdcSetTrigger
  split
  · exact finishes_kept
  · exact finishes_onAdc (finishes_ok {})
  · exact finishes_onAdc (finishes_checked {})

/-! ### Every command -/

/-- Every command ends in one `finish`, and fails without any work. -/
theorem finishes_exec (i : Instr) : Finishes i s (exec i s) := by
  cases i with
  | nop => exact finishes_kept
  | drvInit => exact finishes_ite finishes_kept (finishes_ite finishes_kept (finishes_ok {}))
  | clkdivCalc table => exact finishes_clkdivCalc s table
  | pwmConstruct m mode => exact finishes_pwmConstruct s m mode
  | pwmStart m => exact finishes_onModule fun _ => finishes_checked (works_loadTask s m _)
  | pwmRelease | pwmReadReg | dbSetRise | dbSetFall | tglDisable | tglRead | chpSetPulse | syncSetEvent | syncGetEvent
  | syncIsSynchronizing | phsSetDir | phsGetDir | hrDisable | hrIsEnabled | etResetEvent | etGetEvent =>
    exact finishes_onModule fun _ => finishes_ok {}
  | pwmSetTask | pwmStop | tglEnable | chpSetDuty => exact finishes_onModule fun _ => finishes_checked {}
  | phsSet | hrEnable => exact finishes_onModule fun _ => finishes_ite finishes_kept (finishes_ok {})
  | pwmGetFreq | pwmGetDuty => exact finishes_onModule fun _ => finishes_ite finishes_request finishes_kept
  | chpGetFreq | phsGet => exact finishes_onModule fun _ => finishes_request
  | chpGetDuty m set =>
    show Finishes _ s (execChpGetDuty m set s)
    exact finishes_onModule fun _ => finishes_request
  | chpGetPulse m set =>
    show Finishes _ s (execChpGetPulse m set s)
    exact finishes_onModule fun _ => finishes_request
  | dbGetRise | dbGetFall =>
    exact finishes_onModule fun _ => finishes_ite (finishes_ok {}) (finishes_ok (works_setRes0Readback s _ _ _))
  | pwmGetBounds => exact finishes_onModule fun _ => finishes_ok (works_setBounds s _ _)
  | pwmGetState => exact finishes_checked {}
  | chpSetFreq m => exact finishes_chpSetFreq s m
  | syncSynchronize m =>
    exact finishes_onModule fun _ => finishes_ite (finishes_ok {}) (finishes_ok (works_syncPulse s m _))
  | pwmGetResolution => exact finishes_onModule fun _ => finishes_checked (works_setResolution s _)
  | etSetEvent m x e => exact finishes_etSetEvent s m x e
  | adcConstruct => exact finishes_adcConstruct s
  | adcRelease | adcGetClock | adcGetStatus | adcClearStatus => exact finishes_onAdc (finishes_ok {})
  | adcRegisterTask => exact finishes_onAdc (finishes_ite finishes_kept (finishes_checked {}))
  | adcSetTrigger m src => exact finishes_adcSetTrigger s m src
  | adcTrigger => exact finishes_onTask (finishes_ok (works_startConv s _))
  | adcGetFreeIndex | adcGetFullIndex | adcIsFilled => exact finishes_onTask (finishes_ok {})
  | adcSetFullIsFree => exact finishes_onTask (finishes_ite finishes_kept (finishes_ok {}))
  | adcReadSample =>
    exact finishes_onTask
      (finishes_ite (finishes_ite (finishes_ok (works_readSample s _)) (finishes_fault _)) finishes_kept)

end

/-- Settles O9: the `finish` writes the status, and its record comes behind those of the work. -/
theorem commandEndsInOneFinish : Obligations.CommandEndsInOneFinish := by
  intro i s t run
  obtain ⟨u, c, rfl, ⟨arg0, arg1, arg2, arg3, es, noCmd, history⟩, -⟩ := finishes_exec s i t run
  refine ⟨rfl, arg0, arg1, arg2, arg3, es, noCmd, ?_⟩
  rw [State.finish_history, State.finish_statusCode, history, arg0, arg1, arg2, arg3]

/-- Settles O10: a command that fails finishes the state it found. -/
theorem failedCommandChangesNothing : Obligations.FailedCommandChangesNothing := by
  intro i s t run failed
  obtain ⟨u, c, rfl, -, unchanged⟩ := finishes_exec s i t run
  rw [unchanged failed]
  rfl

end Sys2Proof.Machine
end

section
/-! PROOF. What no agent but the host changes: the command window and the clock table (60_exceptions.md R310,
10_state.md R21, R23). -/

namespace Sys2Proof.Machine

open Sys2Proof.Statements

/-! ### The host's registers -/

/-- The registers of the window, both fields of `STATUS`, and the clock table. -/
def State.hostView (s : State) :=
  (s.arg0, s.arg1, s.arg2, s.arg3, s.res0, s.res1, s.statusCode, s.statusOp, s.drvReady, s.sysclk)

/-- Every next state of the answer has the host's registers of `s`. -/
def KeepsHostView (s : State) (r : Result) : Prop := ∀ t, r = .next t → t.hostView = s.hostView

section
variable {s : State}

theorem keepsHostView_next {t : State} (h : t.hostView = s.hostView) : KeepsHostView s (.next t) := by
  rintro _ ⟨⟩
  exact h

theorem keepsHostView_fault (f : Fault) : KeepsHostView s (.fault f) := by
  rintro _ ⟨⟩

theorem keepsHostView_ite {c : Prop} [Decidable c] {a b : Result} (ha : KeepsHostView s a) (hb : KeepsHostView s b) :
    KeepsHostView s (if c then a else b) := by
  split_ifs
  · exact ha
  · exact hb

end

/-! ### Inputs that are no host write -/

section
variable (s : State)

theorem keepsHostView_hostRead (addr bytes : Nat) : KeepsHostView s (hostRead addr bytes s) := by
  unfold hostRead
  split
  · exact keepsHostView_fault _
  · exact keepsHostView_next rfl

theorem keepsHostView_evCtr (m : ModuleIndex) (e : CtrEvent) : KeepsHostView s (evCtr m e s) := by
  refine keepsHostView_ite (keepsHostView_next ?_) (keepsHostView_fault _)
  obtain ⟨a, h, effect⟩ := State.counterEvent_eq s m e
  rw [effect]
  rfl

theorem keepsHostView_evConv (v : List Half) : KeepsHostView s (evConv v s) :=
  keepsHostView_ite (keepsHostView_ite (keepsHostView_next rfl) (keepsHostView_fault _)) (keepsHostView_fault _)

theorem keepsHostView_captureSequence : KeepsHostView s s.captureSequence := by
  have stored : s.captured.hostView = s.hostView := by rw [State.captured_eq]; rfl
  exact keepsHostView_ite (keepsHostView_next rfl)
    (keepsHostView_ite (keepsHostView_next stored) (keepsHostView_fault _))

theorem keepsHostView_evCapture : KeepsHostView s (evCapture s) :=
  keepsHostView_ite (keepsHostView_ite (keepsHostView_captureSequence s) (keepsHostView_next rfl))
    (keepsHostView_fault _)

theorem keepsHostView_runInput {x : Input} (noWrite : ∀ addr bytes v, x ≠ .hostWrite addr bytes v) :
    KeepsHostView s (runInput x s) := by
  cases x with
  | hostWrite addr bytes v => exact absurd rfl (noWrite addr bytes v)
  | hostRead addr bytes => exact keepsHostView_hostRead s addr bytes
  | evCtr m e => exact keepsHostView_evCtr s m e
  | evSyncIn => exact keepsHostView_next rfl
  | evConv v => exact keepsHostView_evConv s v
  | evCapture => exact keepsHostView_evCapture s

end

/-- Settles O18: the step runs its input, which keeps each of the host's registers. -/
theorem environmentLeavesTheWindow : Obligations.EnvironmentLeavesTheWindow := by
  intro s t x rest next noWrite run
  rw [step_cons next] at run
  have same : t.hostView = s.hostView := keepsHostView_runInput { s with inputs := rest } noWrite t run
  simp only [State.hostView, Prod.mk.injEq] at same
  obtain ⟨arg0, arg1, arg2, arg3, res0, res1, code, op, ready, clk⟩ := same
  exact ⟨arg0, arg1, arg2, arg3, res0, res1, by rw [State.statusWord, code, op]; rfl, ready, clk⟩

end Sys2Proof.Machine
end

section
/-! PROOF. Power-on reset (70_reset_and_hazards.md R330, R331). -/

namespace Sys2Proof.Machine

open Sys2Proof.Statements

/-! ### The values of the reset table -/

theorem defaultColumn_default : DefaultColumn Params.default := by
  unfold DefaultColumn
  decide

theorem moduleAtReset_reset : ModuleAtReset PwmModule.reset := by
  unfold ModuleAtReset
  decide

theorem adcAtReset_reset : AdcAtReset AdcState.reset := by
  have result : ∀ (k : Nat) (h : k < 16), AdcState.reset.result[k] = 0 := fun _ _ => Vector.getElem_replicate _
  have chsel : ∀ (k : Nat) (h : k < 8), AdcState.reset.chsel[k] = 0 := fun _ _ => Vector.getElem_replicate _
  exact ⟨rfl, rfl, rfl, rfl, rfl, rfl, rfl, rfl, result, chsel, rfl, rfl, rfl, rfl, rfl, rfl, rfl, rfl, rfl, rfl, rfl,
    rfl, rfl⟩

section
variable (p : Params)

@[simp] theorem State.pwmAt_resetWith (m : ModuleIndex) : (State.resetWith p).pwmAt m = PwmModule.reset :=
  Vector.getElem_replicate _

theorem State.statusWord_resetWith : (State.resetWith p).statusWord = 0 := by
  apply BitVec.eq_of_toNat_eq
  rw [State.toNat_statusWord]
  rfl

theorem not_converting_resetWith : ¬(State.resetWith p).adc.converting = true := fun busy => by
  obtain ⟨live, -⟩ := AdcState.converting_iff.1 busy
  cases live

/-- The reset state is legal for all parameters that are admitted. -/
theorem State.legal_resetWith (admitted : p.Admitted) : (State.resetWith p).Legal := by
  have uninit (m : ModuleIndex) : ((State.resetWith p).pwmAt m).st = .uninit := by simp [PwmModule.reset]
  have clock : (State.resetWith p).ClockLegal :=
    ⟨(by decide : false = true ↔ 0#32 ≠ 0#32), fun m live => absurd (uninit m) live, fun live => absurd rfl live⟩
  have modules : (State.resetWith p).ModulesLegal := fun m => by
    rw [State.pwmAt_resetWith]
    exact ⟨PwmModule.legal_reset p, fun _ => rfl⟩
  have memory : (State.resetWith p).MemoryLegal := ⟨⟨rfl, List.Pairwise.nil⟩, nofun, nofun⟩
  exact ⟨admitted, clock, modules, AdcState.legal_reset p, memory⟩

/-! ### The environment after reset (R331) -/

theorem evCtr_resetWith (m : ModuleIndex) (e : CtrEvent) :
    evCtr m e (State.resetWith p) = .fault .eventNotEnabled := by
  simp [evCtr, PwmModule.reset]

/-- The sync input stops at module 0, which is `Uninit` (44_sync_phase_hr.md R222). -/
theorem syncInEvents_resetWith (fuel : Nat) (m : ModuleIndex) : (State.resetWith p).syncInEvents fuel m = [] := by
  cases fuel with
  | zero => rfl
  | succ fuel => simp [State.syncInEvents, PwmModule.reset]

theorem evSyncIn_resetWith : evSyncIn (State.resetWith p) = .next (State.resetWith p) := by
  rw [evSyncIn, State.syncIn, syncInEvents_resetWith]
  rfl

end

/-- Settles O13: the fields compute, and the rest is legality and the four steps of the environment. -/
theorem resetIsLegalAndQuiet : Obligations.ResetIsLegalAndQuiet := by
  refine ⟨rfl, by decide, defaultColumn_default, moduleAtReset_reset, adcAtReset_reset, fun p admitted => ?_⟩
  exact ⟨State.legal_resetWith p admitted, rfl, rfl, rfl, rfl, rfl, rfl, rfl, rfl, rfl, State.statusWord_resetWith p,
    rfl, rfl, State.pwmAt_resetWith p, rfl, fun _ => rfl, rfl, rfl, rfl, evCtr_resetWith p,
    fun _ => evConv_of_not_converting (not_converting_resetWith p), evCapture_of_not_enabled nofun,
    evSyncIn_resetWith p⟩

end Sys2Proof.Machine
end
